-- ==== Sys2Proof/Word.lean ====
section
/-! DEFINITION. The words of the machine: bytes, 32-bit registers, byte strings (00_scope.md R6, R7). -/

namespace Sys2Proof

/-- One byte of memory, of the LSB, or of a byte string. -/
abbrev Byte := BitVec 8

/-- A 32-bit register, and one of the eight words of a descriptor. -/
abbrev Word := BitVec 32

/-- A byte string, index 0 at the lowest address (R7). -/
abbrev Bytes := List Byte

end Sys2Proof
end

