-- ==== Sys2Proof/Config.lean ====
section
/-! DEFINITION. The types of what an implementation fixes (every parameter of 00_scope.md R5 that the source does not fix) and
the free values the spec leaves open (93_implementation_defined.md U3, U9). -/

namespace Sys2Proof

/-- The parameter `DRAIN_ON_WRITE` (48_mmio.md R290, R291): which register writes can trigger a drain. -/
inductive DrainOnWrite where
  | ienWriteNonzero
  | anyWriteIenNonzero
  deriving DecidableEq, Repr

/-- The parameter `ECC_INFINITY` (45_ecc.md R226): what an ECC result at infinity does. -/
inductive EccInfinity where
  | fault
  | zero
  deriving DecidableEq, Repr

/-- What `cbWrittenLast` holds after a SHA or AES command that finds a session of other parameters (R179, R201), a point on which
the rules disagree: kept by the procedures (R173, R190, R144) and R350, cleared by R180 (e), R203 (e), R248, R394 and R409, which
give every command past phase 1 a fresh count. The model's parameter, not one of R5 (DESIGN CHOICE, log 25). -/
inductive SessionErrorCount where
  | kept
  | cleared
  deriving DecidableEq, Repr

/-- A range of LOCAL addresses that the I/O manager does not serve (20_memory.md R54). -/
structure Region where
  base : Nat
  size : Nat
  deriving DecidableEq, Repr

/-! ## The encoding of a descriptor (30_encoding.md; decisions D1 to D5, log 9) -/

/-- A field of a word: its lowest bit and its width. -/
structure BitField where
  lo : Nat
  width : Nat
  deriving DecidableEq, Repr

/-- The lowest bits of the four fields of `dw0` (R101). Their widths, 1, 1, 15 and 4, are the source's. -/
structure Dw0Layout where
  init : Nat
  eom : Nat
  function : Nat
  engine : Nat
  deriving DecidableEq, Repr

/-- The engine codes (R108). XTS-AES and DES3 have codes but are no engines of this device: like an unassigned code, theirs
is a decode error. -/
structure EngineCodes where
  aes : Nat
  xtsAes : Nat
  des3 : Nat
  sha : Nat
  rsa : Nat
  passthrough : Nat
  zlib : Nat
  ecc : Nat
  deriving DecidableEq, Repr

/-- The AES function field (R109): its sub-fields and the codes of the supported values. That `size` must be 0 is the
source's. -/
structure AesCoding where
  size : BitField
  encrypt : BitField
  mode : BitField
  type : BitField
  codeDecrypt : Nat
  codeEncrypt : Nat
  codeEcb : Nat
  codeCbc : Nat
  code128 : Nat
  code256 : Nat
  deriving DecidableEq, Repr

/-- The SHA function field (R110). -/
structure ShaCoding where
  type : BitField
  codeSha256 : Nat
  codeSha384 : Nat
  deriving DecidableEq, Repr

/-- The PASSTHROUGH function field (R111). That `reflect` must be 0 is the source's. -/
structure PtCoding where
  byteswap : BitField
  bitwise : BitField
  reflect : BitField
  codeSwapNoop : Nat
  codeSwap256 : Nat
  codeBitwiseNoop : Nat
  deriving DecidableEq, Repr

/-- The RSA function field (R112). `size` holds the operand size itself, 256 or 512. -/
structure RsaCoding where
  mode : BitField
  size : BitField
  codeModexp : Nat
  deriving DecidableEq, Repr

/-- The ECC function field (R113): the bit count and the table of `op` codes. -/
structure EccCoding where
  bits : BitField
  op : BitField
  codeMulf : Nat
  codeAddf : Nat
  codeInvf : Nat
  codeMulc : Nat
  codeMuladdc : Nat
  deriving DecidableEq, Repr

/-- The packing of `srcMemType`, `dstMemType` and `keyMemType` (R104): the lowest bits of the memory-type code (2 bits), the
context id (7 bits) and the fixed flag. -/
structure MemTypeLayout where
  type : Nat
  ctx : Nat
  fixed : Nat
  deriving DecidableEq, Repr

/-- Everything about the bits of a descriptor that the spec calls configuration (R5, R101, R104, R108 to R114). -/
structure Encoding where
  dw0 : Dw0Layout
  engines : EngineCodes
  aes : AesCoding
  sha : ShaCoding
  pt : PtCoding
  rsa : RsaCoding
  ecc : EccCoding
  mem : MemTypeLayout
  deriving DecidableEq, Repr

/-! ## The registers (48_mmio.md R276, R279; decision D7, log 10) -/

/-- The eight numbers of the primary register map (R276): `Q_BASE`, `Q_STRIDE` and the six register offsets. -/
structure RegMap where
  qBase : Nat
  qStride : Nat
  control : Nat
  tail : Nat
  head : Nat
  ien : Nat
  ists : Nat
  status : Nat
  deriving DecidableEq, Repr

/-- The bits of `control`, `ien` and `ists` (R279): `CTRL_RUN`, `CTRL_HALT`, the four `INT_*` bits, and `CTRL_SIZE`, which the
device stores and never uses. -/
structure QueueBits where
  run : Fin 32
  halt : Fin 32
  size : BitField
  completion : Fin 32
  error : Fin 32
  qStop : Fin 32
  qEmpty : Fin 32
  deriving DecidableEq, Repr

/-- Where the platform maps the two regions (R275, decision D7): `PRIMARY_BASE`, `PRIMARY_SIZE`, `SECONDARY_BASE`,
`SECONDARY_SIZE`. No rule uses them: an access is given by its offset in its region. -/
structure Windows where
  primaryBase : Nat
  primarySize : Nat
  secondaryBase : Nat
  secondarySize : Nat
  deriving DecidableEq, Repr

/-! ## The ECC request block (45_ecc.md R217; decision D6, log 11) -/

/-- The block of `ecc.mulf` and of `ecc.addf`: its bytes and where its operands lie. The prime is at offset 0 (R218). -/
structure EccFieldBlock where
  blen : Nat
  a : Nat
  b : Nat
  deriving DecidableEq, Repr

/-- The block of `ecc.invf`. -/
structure EccInvBlock where
  blen : Nat
  a : Nat
  deriving DecidableEq, Repr

/-- The block of `ecc.mulc`; the coefficient is read with the block and ignored (R227). -/
structure EccMulBlock where
  blen : Nat
  k : Nat
  x : Nat
  y : Nat
  coefficient : Nat
  deriving DecidableEq, Repr

/-- The block of `ecc.muladdc`. -/
structure EccMulAddBlock where
  blen : Nat
  k1 : Nat
  x1 : Nat
  y1 : Nat
  k2 : Nat
  x2 : Nat
  y2 : Nat
  coefficient : Nat
  deriving DecidableEq, Repr

/-- The table of R217. -/
structure EccLayout where
  mulf : EccFieldBlock
  addf : EccFieldBlock
  invf : EccInvBlock
  mulc : EccMulBlock
  muladdc : EccMulAddBlock
  deriving DecidableEq, Repr

/-! ## All parameters -/

/-- The parameters of one run (R5): fixed for the machine, changed by no step. Held beside the device's state, so that a
statement about every state holds for every value of them (log 6). The default of each is in `Sys2Proof/Decode.lean` (the
encoding) and in `Sys2Proof/Machine/Layout.lean`. -/
structure Params where
  /-- The field positions and codes of a descriptor (30_encoding.md). -/
  encoding : Encoding
  /-- The primary register map (48_mmio.md R276). -/
  regs : RegMap
  /-- The bits of the queue registers (R279). -/
  bits : QueueBits
  /-- The place of the two regions, used by no rule (decision D7). -/
  windows : Windows
  /-- The ECC request block (45_ecc.md R217). -/
  ecc : EccLayout
  /-- `STATUS_ERROR`: the non-zero outcome code of a failed command, 6 bits (10_state.md R16). -/
  statusError : BitVec 6
  /-- `DRAIN_ON_WRITE` (48_mmio.md R290). -/
  drainOnWrite : DrainOnWrite
  /-- `ECC_INFINITY` (45_ecc.md R226). -/
  eccInfinity : EccInfinity
  /-- The count that a session of other parameters leaves: the model's own parameter (log 25). -/
  sessionErrorCount : SessionErrorCount
  /-- `PROXY`: whether a proxy is present (43_aes.md R189). -/
  proxy : Bool
  /-- The complement of the mapped set of LOCAL addresses (20_memory.md R54). -/
  unmapped : List Region
  deriving DecidableEq, Repr

/-- What the device hands the proxy, `ccpProxy.aesDo(dw0, cbSrc, src, keyAddr, iv, len(iv))` (43_aes.md R189); `len(iv)` is
the length of `iv`. -/
structure ProxyCall where
  dw0 : Nat
  cbSrc : Nat
  src : Bytes
  keyAddr : Nat
  iv : Bytes
  deriving DecidableEq, Repr

namespace Config

/-- Free value (U3, log 7): what the `k`-th rejected MMIO read of `width` bits answers, before it is cut to its width. -/
opaque rejectedRead : (k width : Nat) → Nat

/-- Free value (U9, log 8): whether the proxy call number `k` fails or returns a status other than SUCCESS. -/
opaque proxyFails : (k : Nat) → (call : ProxyCall) → Bool

/-- Free value (U9, log 8): byte `i` of the output of the proxy call number `k`. -/
opaque proxyByte : (k : Nat) → (call : ProxyCall) → (i : Nat) → Byte

end Config

end Sys2Proof
end

