-- ==== Sys2Proof/Machine/Bytes.lean ====
section
/-! DEFINITION. Byte strings read and written as numbers (00_scope.md R6, R7), bit fields of a word, and cutting a byte
string into pieces. -/

namespace Sys2Proof.Machine

/-- `le(b)`: the little-endian reading of a byte string (R7). -/
def le : Bytes → Nat
  | [] => 0
  | b :: t => b.toNat + 256 * le t

/-- `be(b)`: the big-endian reading, `be(b) = le(rev(b))` (R7). -/
def be (b : Bytes) : Nat := le b.reverse

/-- `to_le(v, n)`: the `n` bytes of `v`, least significant first (R7). -/
def toLe (v : Nat) : Nat → Bytes
  | 0 => []
  | n + 1 => BitVec.ofNat 8 (v % 256) :: toLe (v / 256) n

/-- `to_be(v, n)`: the `n` bytes of `v`, most significant first (R7). -/
def toBe (v n : Nat) : Bytes := (toLe v n).reverse

/-- `w[lo+n-1 : lo]`, the `n`-bit field of `w` at bit `lo` (R6). -/
def field (w lo n : Nat) : Nat := w / 2 ^ lo % 2 ^ n

/-- `w[i]`, one bit (R6). -/
def bitAt (w i : Nat) : Bool := field w i 1 == 1

/-- The value of a field of `w` (R6). -/
def getField (w : Nat) (b : BitField) : Nat := field w b.lo b.width

/-- The word that holds each value in its field, all other bits 0. -/
def pack : List (BitField × Nat) → Nat
  | [] => 0
  | (b, v) :: t => v <<< b.lo ||| pack t

/-- Two fields share no bit. -/
abbrev apart (a b : BitField) : Prop := a.lo + a.width ≤ b.lo ∨ b.lo + b.width ≤ a.lo

/-- The fields lie in a word of `n` bits and share no bit. -/
abbrev fieldsWf (n : Nat) (l : List BitField) : Prop := (∀ b ∈ l, b.lo + b.width ≤ n) ∧ l.Pairwise apart

/-- The codes fit a field of `width` bits and are distinct. -/
abbrev codesWf (width : Nat) (l : List Nat) : Prop := (∀ v ∈ l, v < 2 ^ width) ∧ l.Nodup

/-- `b[i..j)` with `j = i + n` (R7). -/
def slice (b : Bytes) (i n : Nat) : Bytes := (b.drop i).take n

/-- Bytewise exclusive or (43_aes.md R191). -/
def xorBytes (a b : Bytes) : Bytes := List.zipWith (· ^^^ ·) a b

/-- The first `k` pieces of `n` elements each. -/
def pieces {α : Type} (n : Nat) : Nat → List α → List (List α)
  | 0, _ => []
  | k + 1, l => l.take n :: pieces n k (l.drop n)

end Sys2Proof.Machine
end

