-- ==== Sys2Proof/Machine/AesCipher.lean ====
section
/-! DEFINITION. The AES block functions (49_reference_algorithms.md R315 to R319). -/

namespace Sys2Proof.Machine

/-! ## The substitution tables (R316) -/

/-- `SBOX`: one 16-byte number per row of the table, column 0 the most significant byte (R316). -/
def sboxRows : List Nat :=
  [0x637C777BF26B6FC53001672BFED7AB76, 0xCA82C97DFA5947F0ADD4A2AF9CA472C0,
   0xB7FD9326363FF7CC34A5E5F171D83115, 0x04C723C31896059A071280E2EB27B275,
   0x09832C1A1B6E5AA0523BD6B329E32F84, 0x53D100ED20FCB15B6ACBBE394A4C58CF,
   0xD0EFAAFB434D338545F9027F503C9FA8, 0x51A3408F929D38F5BCB6DA2110FFF3D2,
   0xCD0C13EC5F974417C4A77E3D645D1973, 0x60814FDC222A908846EEB814DE5E0BDB,
   0xE0323A0A4906245CC2D3AC629195E479, 0xE7C8376D8DD54EA96C56F4EA657AAE08,
   0xBA78252E1CA6B4C6E8DD741F4BBD8B8A, 0x703EB5664803F60E613557B986C11D9E,
   0xE1F8981169D98E949B1E87E9CE5528DF, 0x8CA1890DBFE6426841992D0FB054BB16]

/-- `INVSBOX`, laid out as `sboxRows` (R316). -/
def invSboxRows : List Nat :=
  [0x52096AD53036A538BF40A39E81F3D7FB, 0x7CE339829B2FFF87348E4344C4DEE9CB,
   0x547B9432A6C2233DEE4C950B42FAC34E, 0x082EA16628D924B2765BA2496D8BD125,
   0x72F8F66486689816D4A45CCC5D65B692, 0x6C704850FDEDB9DA5E154657A78D9D84,
   0x90D8AB008CBCD30AF7E45805B8B34506, 0xD02C1E8FCA3F0F02C1AFBD0301138A6B,
   0x3A9111414F67DCEA97F2CFCEF0B4E673, 0x96AC7422E7AD3585E2F937E81C75DF6E,
   0x47F11A711D29C5896FB7620EAA18BE1B, 0xFC563E4BC6D279209ADBC0FE78CD5AF4,
   0x1FDDA8338807C731B11210592780EC5F, 0x60517FA919B54A0D2DE57A9F93C99CEF,
   0xA0E03B4DAE2AF5B0C8EBBB3C83539961, 0x172B047EBA77D626E169146355210C7D]

/-- Row = high nibble of `x`, column = low nibble (R316). -/
def boxAt (rows : List Nat) (x : Byte) : Byte :=
  BitVec.ofNat 8 (rows.getD (x.toNat / 16) 0 / 256 ^ (15 - x.toNat % 16))

/-- `SBOX[x]` (R316). -/
def sbox (x : Byte) : Byte := boxAt sboxRows x

/-- `INVSBOX[x]` (R316). -/
def invSbox (x : Byte) : Byte := boxAt invSboxRows x

/-! ## GF(2^8) (R315) -/

/-- `xtime(a)` (R315). -/
def xtime (a : Byte) : Byte := (a <<< 1) ^^^ (if a.getLsbD 7 then 0x1B else 0)

/-- The product in GF(2^8), by shift-and-add with `xtime` over the bits of the small constant `k` (R315). -/
def gmul : Nat → Nat → Byte → Byte
  | 0, _, _ => 0
  | fuel + 1, k, a => (if k % 2 = 1 then a else 0) ^^^ gmul fuel (k / 2) (xtime a)

/-- The product with a 4-bit constant, as the column mixing needs it (R318, R319). -/
def gfMul (k : Nat) (a : Byte) : Byte := gmul 4 k a

/-! ## Key expansion (R317) -/

/-- `RotWord` (R317). -/
def rotWord (t : Bytes) : Bytes := t.drop 1 ++ t.take 1

/-- `SubWord` (R317). -/
def subWord (t : Bytes) : Bytes := t.map sbox

/-- `Rcon[j] = xtime^(j-1)(01)` (R317). -/
def rcon : Nat → Byte
  | 0 => 0
  | 1 => 0x01
  | j + 2 => xtime (rcon (j + 1))

/-- The change applied to `w[i-1]` before it is added to `w[i-Nk]` (R317). -/
def keyStep (nk i : Nat) (t : Bytes) : Bytes :=
  if i % nk = 0 then xorBytes (subWord (rotWord t)) [rcon (i / nk), 0, 0, 0]
  else if nk = 8 ∧ i % 8 = 4 then subWord t
  else t

/-- `n` more words of the key schedule from word `i` on; the words made so far stand newest first (R317). -/
def keyExtend (nk : Nat) : Nat → Nat → List Bytes → List Bytes
  | 0, _, ws => ws
  | n + 1, i, ws =>
    keyExtend nk n (i + 1) (xorBytes (ws.getD (nk - 1) []) (keyStep nk i (ws.getD 0 [])) :: ws)

/-- `Nk`, the key length in words (R315). -/
def aesNk (key : Bytes) : Nat := key.length / 4

/-- `Nr`, the number of rounds: 10 for a 16-byte key, 14 for a 32-byte key (R315). -/
def aesNr (key : Bytes) : Nat := aesNk key + 6

/-- The round keys 0 to `Nr`, 16 bytes each (R317). -/
def roundKeys (key : Bytes) : List Bytes :=
  let words := (keyExtend (aesNk key) (4 * (aesNr key + 1) - aesNk key) (aesNk key)
    (pieces 4 (aesNk key) key).reverse).reverse
  (pieces 4 (aesNr key + 1) words).map List.flatten

/-! ## The rounds (R318, R319) -/

/-- `SubBytes` (R318). -/
def subBytes (s : Bytes) : Bytes := s.map sbox

/-- `InvSubBytes` (R319). -/
def invSubBytes (s : Bytes) : Bytes := s.map invSbox

/-- `ShiftRows`: new `s[4c + r] = old s[4((c + r) mod 4) + r]` (R318). -/
def shiftRows (s : Bytes) : Bytes := (List.range 16).map fun i => s.getD (4 * ((i / 4 + i % 4) % 4) + i % 4) 0

/-- `InvShiftRows`: new `s[4((c + r) mod 4) + r] = old s[4c + r]` (R319). -/
def invShiftRows (s : Bytes) : Bytes := (List.range 16).map fun i => s.getD (4 * ((i / 4 + 4 - i % 4) % 4) + i % 4) 0

/-- One column times the circulant matrix of first row `k0 k1 k2 k3` (R318, R319). -/
def mixColumn (k0 k1 k2 k3 : Nat) (a : Bytes) : Bytes :=
  let m := fun i j => gfMul i (a.getD j 0)
  [m k0 0 ^^^ m k1 1 ^^^ m k2 2 ^^^ m k3 3, m k3 0 ^^^ m k0 1 ^^^ m k1 2 ^^^ m k2 3,
    m k2 0 ^^^ m k3 1 ^^^ m k0 2 ^^^ m k1 3, m k1 0 ^^^ m k2 1 ^^^ m k3 2 ^^^ m k0 3]

/-- `MixColumns` (R318). -/
def mixColumns (s : Bytes) : Bytes := (pieces 4 4 s).flatMap (mixColumn 2 3 1 1)

/-- `InvMixColumns` (R319). -/
def invMixColumns (s : Bytes) : Bytes := (pieces 4 4 s).flatMap (mixColumn 14 11 13 9)

/-- Rounds 1 to `Nr` of `AES_ENC`; the last round key has no `MixColumns` before it (R318). -/
def encRounds : List Bytes → Bytes → Bytes
  | [], s => s
  | [k], s => xorBytes (shiftRows (subBytes s)) k
  | k :: k' :: ks, s => encRounds (k' :: ks) (xorBytes (mixColumns (shiftRows (subBytes s))) k)

/-- `AES_ENC(key, b)` (R318). -/
def aesEnc (key b : Bytes) : Bytes :=
  match roundKeys key with
  | [] => b
  | k :: ks => encRounds ks (xorBytes b k)

/-- The rounds of `AES_DEC`, round keys from `Nr - 1` down to 0; the last has no `InvMixColumns` after it (R319). -/
def decRounds : List Bytes → Bytes → Bytes
  | [], s => s
  | [k], s => xorBytes (invSubBytes (invShiftRows s)) k
  | k :: k' :: ks, s => decRounds (k' :: ks) (invMixColumns (xorBytes (invSubBytes (invShiftRows s)) k))

/-- `AES_DEC(key, b)` (R319). -/
def aesDec (key b : Bytes) : Bytes :=
  match (roundKeys key).reverse with
  | [] => b
  | k :: ks => decRounds ks (xorBytes b k)

end Sys2Proof.Machine
end

