-- ==== Sys2Proof/Syntax.lean ====
section
/-! DEFINITION. The commands of the device: one constructor per row of `spec/opcode_table.json` (30_encoding.md R115), and
their operands. Bits that the device ignores (R116) are not operands. -/

namespace Sys2Proof

/-- The 2-bit memory-type code of a descriptor address (20_memory.md R50): `system` 0, `sb` 1 (the LSB), `localMem` 2,
`code3` the unassigned code 3. -/
inductive MemType where
  | system
  | sb
  | localMem
  | code3
  deriving DecidableEq, Repr

/-- The flags of `dw0` (30_encoding.md R101). -/
structure MsgFlags where
  init : Bool
  eom : Bool
  deriving DecidableEq, Repr

/-- The source operand (R102 to R104). `ctx` is the LSB context id, `fixed` is decoded and ignored by every engine. -/
structure Source where
  cbSrc : Nat
  addr : Nat
  mt : MemType
  ctx : Nat
  fixed : Bool
  deriving DecidableEq, Repr

/-- A destination or key operand (R103, R105, R107). -/
structure Place where
  addr : Nat
  mt : MemType
  deriving DecidableEq, Repr

/-- The twenty commands (R115). -/
inductive Instr where
  | ptCopy (fl : MsgFlags) (src : Source) (dst : Place)
  | ptSwap256 (fl : MsgFlags) (src : Source) (dst : Place)
  | sha256 (fl : MsgFlags) (src : Source) (shaBits : Nat)
  | sha384 (fl : MsgFlags) (src : Source) (shaBits : Nat)
  | aes128EcbDec (fl : MsgFlags) (src : Source) (dst key : Place)
  | aes128EcbEnc (fl : MsgFlags) (src : Source) (dst key : Place)
  | aes128CbcDec (fl : MsgFlags) (src : Source) (dst key : Place)
  | aes128CbcEnc (fl : MsgFlags) (src : Source) (dst key : Place)
  | aes256EcbDec (fl : MsgFlags) (src : Source) (dst key : Place)
  | aes256EcbEnc (fl : MsgFlags) (src : Source) (dst key : Place)
  | aes256CbcDec (fl : MsgFlags) (src : Source) (dst key : Place)
  | aes256CbcEnc (fl : MsgFlags) (src : Source) (dst key : Place)
  | rsaModexp2048 (fl : MsgFlags) (src : Source) (dst key : Place)
  | rsaModexp4096 (fl : MsgFlags) (src : Source) (dst key : Place)
  | eccMulf (fl : MsgFlags) (src : Source) (dst : Place) (bits : Nat)
  | eccAddf (fl : MsgFlags) (src : Source) (dst : Place) (bits : Nat)
  | eccInvf (fl : MsgFlags) (src : Source) (dst : Place) (bits : Nat)
  | eccMulc (fl : MsgFlags) (src : Source) (dst : Place) (bits : Nat)
  | eccMuladdc (fl : MsgFlags) (src : Source) (dst : Place) (bits : Nat)
  | zlibInflate (fl : MsgFlags) (src : Source) (dst : Place)
  deriving DecidableEq, Repr

end Sys2Proof
end

