-- ==== Sys2Proof/WellFormed.lean ====
section
/-! DEFINITION. Well-formed commands: every operand fits the field of the descriptor that holds it (30_encoding.md R100 to
R107, R113). -/

namespace Sys2Proof

/-- `cbSrc` is 32 bits, `srcAddr` 48 bits, the context id 7 bits (R102 to R104). -/
abbrev Source.WellFormed (x : Source) : Prop := x.cbSrc < 2 ^ 32 ∧ x.addr < 2 ^ 48 ∧ x.ctx < 128

/-- A destination or key address is 48 bits (R103). -/
abbrev Place.WellFormed (x : Place) : Prop := x.addr < 2 ^ 48

/-- Every operand of the command fits its field. -/
def Instr.wellFormed : Instr → Bool
  | .ptCopy _ src dst => decide (src.WellFormed ∧ dst.WellFormed)
  | .ptSwap256 _ src dst => decide (src.WellFormed ∧ dst.WellFormed)
  | .sha256 _ src shaBits => decide (src.WellFormed ∧ shaBits < 2 ^ 64)
  | .sha384 _ src shaBits => decide (src.WellFormed ∧ shaBits < 2 ^ 64)
  | .aes128EcbDec _ src dst key => decide (src.WellFormed ∧ dst.WellFormed ∧ key.WellFormed)
  | .aes128EcbEnc _ src dst key => decide (src.WellFormed ∧ dst.WellFormed ∧ key.WellFormed)
  | .aes128CbcDec _ src dst key => decide (src.WellFormed ∧ dst.WellFormed ∧ key.WellFormed)
  | .aes128CbcEnc _ src dst key => decide (src.WellFormed ∧ dst.WellFormed ∧ key.WellFormed)
  | .aes256EcbDec _ src dst key => decide (src.WellFormed ∧ dst.WellFormed ∧ key.WellFormed)
  | .aes256EcbEnc _ src dst key => decide (src.WellFormed ∧ dst.WellFormed ∧ key.WellFormed)
  | .aes256CbcDec _ src dst key => decide (src.WellFormed ∧ dst.WellFormed ∧ key.WellFormed)
  | .aes256CbcEnc _ src dst key => decide (src.WellFormed ∧ dst.WellFormed ∧ key.WellFormed)
  | .rsaModexp2048 _ src dst key => decide (src.WellFormed ∧ dst.WellFormed ∧ key.WellFormed)
  | .rsaModexp4096 _ src dst key => decide (src.WellFormed ∧ dst.WellFormed ∧ key.WellFormed)
  | .eccMulf _ src dst bits => decide (src.WellFormed ∧ dst.WellFormed ∧ bits < 2 ^ 12)
  | .eccAddf _ src dst bits => decide (src.WellFormed ∧ dst.WellFormed ∧ bits < 2 ^ 12)
  | .eccInvf _ src dst bits => decide (src.WellFormed ∧ dst.WellFormed ∧ bits < 2 ^ 12)
  | .eccMulc _ src dst bits => decide (src.WellFormed ∧ dst.WellFormed ∧ bits < 2 ^ 12)
  | .eccMuladdc _ src dst bits => decide (src.WellFormed ∧ dst.WellFormed ∧ bits < 2 ^ 12)
  | .zlibInflate _ src dst => decide (src.WellFormed ∧ dst.WellFormed)

/-- The command's operands fit the descriptor. -/
abbrev Instr.WellFormed (i : Instr) : Prop := i.wellFormed = true

end Sys2Proof
end

