-- ==== Sys2Proof/Decode.lean ====
section
/-! DEFINITION. The decoder and the encoder of the 32-byte request descriptor (30_encoding.md R100 to R117, 40_dispatch.md
R140, R141, R143), for every encoding a configuration gives, and the spec's default encoding (92_eei_decisions.md D1 to D5,
log 9). -/

namespace Sys2Proof

open Machine (le toLe field bitAt slice getField pack fieldsWf codesWf)

/-- Why a descriptor is no command (R117). -/
inductive Reject where
  /-- Not 32 bytes: the queue controller never fetches such a string (R100). -/
  | badLength
  /-- An engine code the device does not know: by default 1, 2, 8 to 15 (R143). -/
  | unknownEngine (code : Nat)
  /-- A known engine with a function value this core does not support (R117 (b)); `function` is the 15-bit field. -/
  | unsupportedFunction (engine function : Nat)
  deriving DecidableEq, Repr

/-- The 2-bit memory-type code (20_memory.md R50). -/
def MemType.ofCode (n : Nat) : MemType :=
  if n = 0 then .system else if n = 1 then .sb else if n = 2 then .localMem else .code3

/-- The code of a memory type (20_memory.md R50). -/
def MemType.code : MemType → Nat
  | .system => 0
  | .sb => 1
  | .localMem => 2
  | .code3 => 3

/-- The little-endian word `dw<k>` of a descriptor (R100). -/
def descWord (d : Bytes) (k : Nat) : Nat := le (slice d (4 * k) 4)

/-! ## The encoding (R101, R104, R108 to R114) -/

/-- The spec's default encoding (R101, R104, R108 to R114; log 9). -/
def Encoding.default : Encoding where
  dw0 := { init := 3, eom := 4, function := 5, engine := 20 }
  engines := { aes := 0, xtsAes := 1, des3 := 2, sha := 3, rsa := 4, passthrough := 5, zlib := 6, ecc := 7 }
  aes :=
    { size := ⟨0, 7⟩, encrypt := ⟨7, 1⟩, mode := ⟨8, 5⟩, type := ⟨13, 2⟩
      codeDecrypt := 0, codeEncrypt := 1, codeEcb := 0, codeCbc := 1, code128 := 0, code256 := 2 }
  sha := { type := ⟨10, 4⟩, codeSha256 := 3, codeSha384 := 4 }
  pt :=
    { byteswap := ⟨0, 2⟩, bitwise := ⟨2, 3⟩, reflect := ⟨5, 2⟩
      codeSwapNoop := 0, codeSwap256 := 2, codeBitwiseNoop := 0 }
  rsa := { mode := ⟨0, 3⟩, size := ⟨3, 12⟩, codeModexp := 0 }
  ecc :=
    { bits := ⟨0, 12⟩, op := ⟨12, 3⟩
      codeMulf := 0, codeAddf := 1, codeInvf := 2, codeMulc := 3, codeMuladdc := 4 }
  mem := { type := 0, ctx := 2, fixed := 15 }

/-- The fields of `dw0`, of the packed memory-type word and of each function field share no bit and fit; the codes of each
field are distinct and fit; the ECC bit count keeps its 12 bits (R113). -/
structure Encoding.WF (c : Encoding) : Prop where
  dw0 : fieldsWf 32 [⟨c.dw0.init, 1⟩, ⟨c.dw0.eom, 1⟩, ⟨c.dw0.function, 15⟩, ⟨c.dw0.engine, 4⟩]
  engines : codesWf 4 [c.engines.aes, c.engines.xtsAes, c.engines.des3, c.engines.sha, c.engines.rsa, c.engines.passthrough,
    c.engines.zlib, c.engines.ecc]
  aes : fieldsWf 15 [c.aes.size, c.aes.encrypt, c.aes.mode, c.aes.type]
  aesDir : codesWf c.aes.encrypt.width [c.aes.codeDecrypt, c.aes.codeEncrypt]
  aesMode : codesWf c.aes.mode.width [c.aes.codeEcb, c.aes.codeCbc]
  aesType : codesWf c.aes.type.width [c.aes.code128, c.aes.code256]
  sha : fieldsWf 15 [c.sha.type]
  shaType : codesWf c.sha.type.width [c.sha.codeSha256, c.sha.codeSha384]
  pt : fieldsWf 15 [c.pt.byteswap, c.pt.bitwise, c.pt.reflect]
  ptSwap : codesWf c.pt.byteswap.width [c.pt.codeSwapNoop, c.pt.codeSwap256]
  ptBitwise : codesWf c.pt.bitwise.width [c.pt.codeBitwiseNoop]
  rsa : fieldsWf 15 [c.rsa.mode, c.rsa.size]
  rsaMode : codesWf c.rsa.mode.width [c.rsa.codeModexp]
  rsaSize : codesWf c.rsa.size.width [256, 512]
  ecc : fieldsWf 15 [c.ecc.bits, c.ecc.op]
  eccBits : c.ecc.bits.width = 12
  eccOp : codesWf c.ecc.op.width [c.ecc.codeMulf, c.ecc.codeAddf, c.ecc.codeInvf, c.ecc.codeMulc, c.ecc.codeMuladdc]
  mem : fieldsWf 16 [⟨c.mem.type, 2⟩, ⟨c.mem.ctx, 7⟩, ⟨c.mem.fixed, 1⟩]

/-- The engine code of a command (R108). -/
def Instr.engineCode (c : Encoding) : Instr → Nat
  | .ptCopy .. => c.engines.passthrough
  | .ptSwap256 .. => c.engines.passthrough
  | .sha256 .. => c.engines.sha
  | .sha384 .. => c.engines.sha
  | .aes128EcbDec .. => c.engines.aes
  | .aes128EcbEnc .. => c.engines.aes
  | .aes128CbcDec .. => c.engines.aes
  | .aes128CbcEnc .. => c.engines.aes
  | .aes256EcbDec .. => c.engines.aes
  | .aes256EcbEnc .. => c.engines.aes
  | .aes256CbcDec .. => c.engines.aes
  | .aes256CbcEnc .. => c.engines.aes
  | .rsaModexp2048 .. => c.engines.rsa
  | .rsaModexp4096 .. => c.engines.rsa
  | .eccMulf .. => c.engines.ecc
  | .eccAddf .. => c.engines.ecc
  | .eccInvf .. => c.engines.ecc
  | .eccMulc .. => c.engines.ecc
  | .eccMuladdc .. => c.engines.ecc
  | .zlibInflate .. => c.engines.zlib

/-- An AES function field (R109): `size` is 0. -/
def aesFunction (c : AesCoding) (type mode encrypt : Nat) : List (BitField × Nat) :=
  [(c.size, 0), (c.encrypt, encrypt), (c.mode, mode), (c.type, type)]

/-- The sub-fields of the function field that say which command it is, with their values, and `bits` of an ECC command (R109 to
R113). Sub-fields that are not listed are ignored (R116). -/
def Instr.functionFields (c : Encoding) : Instr → List (BitField × Nat)
  | .ptCopy .. => [(c.pt.byteswap, c.pt.codeSwapNoop), (c.pt.bitwise, c.pt.codeBitwiseNoop), (c.pt.reflect, 0)]
  | .ptSwap256 .. => [(c.pt.byteswap, c.pt.codeSwap256), (c.pt.bitwise, c.pt.codeBitwiseNoop), (c.pt.reflect, 0)]
  | .sha256 .. => [(c.sha.type, c.sha.codeSha256)]
  | .sha384 .. => [(c.sha.type, c.sha.codeSha384)]
  | .aes128EcbDec .. => aesFunction c.aes c.aes.code128 c.aes.codeEcb c.aes.codeDecrypt
  | .aes128EcbEnc .. => aesFunction c.aes c.aes.code128 c.aes.codeEcb c.aes.codeEncrypt
  | .aes128CbcDec .. => aesFunction c.aes c.aes.code128 c.aes.codeCbc c.aes.codeDecrypt
  | .aes128CbcEnc .. => aesFunction c.aes c.aes.code128 c.aes.codeCbc c.aes.codeEncrypt
  | .aes256EcbDec .. => aesFunction c.aes c.aes.code256 c.aes.codeEcb c.aes.codeDecrypt
  | .aes256EcbEnc .. => aesFunction c.aes c.aes.code256 c.aes.codeEcb c.aes.codeEncrypt
  | .aes256CbcDec .. => aesFunction c.aes c.aes.code256 c.aes.codeCbc c.aes.codeDecrypt
  | .aes256CbcEnc .. => aesFunction c.aes c.aes.code256 c.aes.codeCbc c.aes.codeEncrypt
  | .rsaModexp2048 .. => [(c.rsa.mode, c.rsa.codeModexp), (c.rsa.size, 256)]
  | .rsaModexp4096 .. => [(c.rsa.mode, c.rsa.codeModexp), (c.rsa.size, 512)]
  | .eccMulf _ _ _ bits => [(c.ecc.op, c.ecc.codeMulf), (c.ecc.bits, bits)]
  | .eccAddf _ _ _ bits => [(c.ecc.op, c.ecc.codeAddf), (c.ecc.bits, bits)]
  | .eccInvf _ _ _ bits => [(c.ecc.op, c.ecc.codeInvf), (c.ecc.bits, bits)]
  | .eccMulc _ _ _ bits => [(c.ecc.op, c.ecc.codeMulc), (c.ecc.bits, bits)]
  | .eccMuladdc _ _ _ bits => [(c.ecc.op, c.ecc.codeMuladdc), (c.ecc.bits, bits)]
  | .zlibInflate .. => []

/-! ## The decoder -/

/-- The fields of `dw0` (R101). -/
def dw0Engine (c : Encoding) (d : Bytes) : Nat := field (descWord d 0) c.dw0.engine 4
def dw0Function (c : Encoding) (d : Bytes) : Nat := field (descWord d 0) c.dw0.function 15

/-- `init` and `eom` (R101): by default `dw0[3]` and `dw0[4]`. -/
def decodeFlags (c : Encoding) (d : Bytes) : MsgFlags where
  init := bitAt (descWord d 0) c.dw0.init
  eom := bitAt (descWord d 0) c.dw0.eom

/-- A 48-bit address: `dw<k>` and the low half of `dw<k+1>` (R100, R103). -/
def decodeAddr (d : Bytes) (k : Nat) : Nat := field (descWord d (k + 1)) 0 16 * 2 ^ 32 + descWord d k

/-- A packed memory-type word: the high half of `dw<k>` (R100). -/
def memTypeWord (d : Bytes) (k : Nat) : Nat := field (descWord d k) 16 16

/-- The source fields (R102 to R104, R140). -/
def decodeSource (c : Encoding) (d : Bytes) : Source where
  cbSrc := descWord d 1
  addr := decodeAddr d 2
  mt := .ofCode (field (memTypeWord d 3) c.mem.type 2)
  ctx := field (memTypeWord d 3) c.mem.ctx 7
  fixed := bitAt (memTypeWord d 3) c.mem.fixed

/-- The address and memory type in `dw<k>` and `dw<k+1>` (R103, R105, R107, R140): of a packed memory-type word other than the
source's only the code is read (R104). -/
def decodePlace (c : Encoding) (d : Bytes) (k : Nat) : Place where
  addr := decodeAddr d k
  mt := .ofCode (field (memTypeWord d (k + 1)) c.mem.type 2)

/-- `shaBits` of the SHA form (R106). -/
def decodeShaBits (d : Bytes) : Nat := descWord d 5 * 2 ^ 32 + descWord d 4

/-- The commands of an engine code, with the operands that the descriptor gives them (R108, R115); none for a code the device
does not know. That `cbSrc = 32` for the byteswap and `bits ≤ 576` for ECC is checked by the engines (41_passthrough.md R160,
45_ecc.md R215). -/
def engineCommands (c : Encoding) (d : Bytes) (e : Nat) : List Instr :=
  let fl := decodeFlags c d
  let src := decodeSource c d
  let dst := decodePlace c d 4
  let key := decodePlace c d 6
  if e = c.engines.aes then
    [.aes128EcbDec fl src dst key, .aes128EcbEnc fl src dst key, .aes128CbcDec fl src dst key, .aes128CbcEnc fl src dst key,
      .aes256EcbDec fl src dst key, .aes256EcbEnc fl src dst key, .aes256CbcDec fl src dst key,
      .aes256CbcEnc fl src dst key]
  else if e = c.engines.sha then [.sha256 fl src (decodeShaBits d), .sha384 fl src (decodeShaBits d)]
  else if e = c.engines.rsa then [.rsaModexp2048 fl src dst key, .rsaModexp4096 fl src dst key]
  else if e = c.engines.passthrough then [.ptCopy fl src dst, .ptSwap256 fl src dst]
  else if e = c.engines.zlib then [.zlibInflate fl src dst]
  else if e = c.engines.ecc then
    let bits := getField (dw0Function c d) c.ecc.bits
    [.eccMulf fl src dst bits, .eccAddf fl src dst bits, .eccInvf fl src dst bits, .eccMulc fl src dst bits,
      .eccMuladdc fl src dst bits]
  else []

/-- Whether a function field is that of the command (R109 to R114). -/
def Instr.selectedBy (c : Encoding) (f : Nat) (i : Instr) : Bool :=
  (i.functionFields c).all fun p => getField f p.1 == p.2

/-- The decode procedure (R115) for an encoding: the engine, then its command with this function field. -/
def decodeWith (c : Encoding) (d : Bytes) : Except Reject Instr :=
  if d.length = 32 then
    match engineCommands c d (dw0Engine c d) with
    | [] => .error (.unknownEngine (dw0Engine c d))
    | i :: rest =>
      match (i :: rest).find? (Instr.selectedBy c (dw0Function c d)) with
      | some j => .ok j
      | none => .error (.unsupportedFunction (dw0Engine c d) (dw0Function c d))
  else .error .badLength

/-- The decode procedure for the default encoding (R115). -/
def decode (d : Bytes) : Except Reject Instr := decodeWith Encoding.default d

/-! ## The opcode table (R115), for the default encoding -/

/-- The `dw0` match value of a command (the table of R115). -/
def Instr.dw0Match : Instr → Nat
  | .ptCopy .. => 0x00500000
  | .ptSwap256 .. => 0x00500040
  | .sha256 .. => 0x00318000
  | .sha384 .. => 0x00320000
  | .aes128EcbDec .. => 0x00000000
  | .aes128EcbEnc .. => 0x00001000
  | .aes128CbcDec .. => 0x00002000
  | .aes128CbcEnc .. => 0x00003000
  | .aes256EcbDec .. => 0x00080000
  | .aes256EcbEnc .. => 0x00081000
  | .aes256CbcDec .. => 0x00082000
  | .aes256CbcEnc .. => 0x00083000
  | .rsaModexp2048 .. => 0x00410000
  | .rsaModexp4096 .. => 0x00420000
  | .eccMulf .. => 0x00700000
  | .eccAddf .. => 0x00720000
  | .eccInvf .. => 0x00740000
  | .eccMulc .. => 0x00760000
  | .eccMuladdc .. => 0x00780000
  | .zlibInflate .. => 0x00600000

/-- The `dw0` mask of a command (the table of R115). -/
def Instr.dw0Mask : Instr → Nat
  | .ptCopy .. => 0x00F00FE0
  | .ptSwap256 .. => 0x00F00FE0
  | .sha256 .. => 0x00F78000
  | .sha384 .. => 0x00F78000
  | .aes128EcbDec .. => 0x00FFFFE0
  | .aes128EcbEnc .. => 0x00FFFFE0
  | .aes128CbcDec .. => 0x00FFFFE0
  | .aes128CbcEnc .. => 0x00FFFFE0
  | .aes256EcbDec .. => 0x00FFFFE0
  | .aes256EcbEnc .. => 0x00FFFFE0
  | .aes256CbcDec .. => 0x00FFFFE0
  | .aes256CbcEnc .. => 0x00FFFFE0
  | .rsaModexp2048 .. => 0x00FFFFE0
  | .rsaModexp4096 .. => 0x00FFFFE0
  | .eccMulf .. => 0x00FE0000
  | .eccAddf .. => 0x00FE0000
  | .eccInvf .. => 0x00FE0000
  | .eccMulc .. => 0x00FE0000
  | .eccMuladdc .. => 0x00FE0000
  | .zlibInflate .. => 0x00F00000

/-! ## The encoder -/

/-- The flags of a command. -/
def Instr.flags : Instr → MsgFlags
  | .ptCopy fl _ _ => fl
  | .ptSwap256 fl _ _ => fl
  | .sha256 fl _ _ => fl
  | .sha384 fl _ _ => fl
  | .aes128EcbDec fl _ _ _ => fl
  | .aes128EcbEnc fl _ _ _ => fl
  | .aes128CbcDec fl _ _ _ => fl
  | .aes128CbcEnc fl _ _ _ => fl
  | .aes256EcbDec fl _ _ _ => fl
  | .aes256EcbEnc fl _ _ _ => fl
  | .aes256CbcDec fl _ _ _ => fl
  | .aes256CbcEnc fl _ _ _ => fl
  | .rsaModexp2048 fl _ _ _ => fl
  | .rsaModexp4096 fl _ _ _ => fl
  | .eccMulf fl _ _ _ => fl
  | .eccAddf fl _ _ _ => fl
  | .eccInvf fl _ _ _ => fl
  | .eccMulc fl _ _ _ => fl
  | .eccMuladdc fl _ _ _ => fl
  | .zlibInflate fl _ _ => fl

/-- `dw0` of a command, ignored bits 0 (R101, R119). -/
def Instr.dw0 (c : Encoding) (i : Instr) : Nat :=
  pack
    [(⟨c.dw0.init, 1⟩, i.flags.init.toNat), (⟨c.dw0.eom, 1⟩, i.flags.eom.toNat),
      (⟨c.dw0.function, 15⟩, pack (i.functionFields c)), (⟨c.dw0.engine, 4⟩, i.engineCode c)]

/-- The words `dw1 dw2 dw3` of a source operand (R100, R104). -/
def encodeSource (c : Encoding) (x : Source) : Bytes :=
  toLe x.cbSrc 4 ++ toLe (x.addr % 2 ^ 32) 4 ++ toLe (x.addr / 2 ^ 32) 2 ++
    toLe (pack [(⟨c.mem.type, 2⟩, x.mt.code), (⟨c.mem.ctx, 7⟩, x.ctx), (⟨c.mem.fixed, 1⟩, x.fixed.toNat)]) 2

/-- The two words of a destination or key operand (R100). -/
def encodePlace (c : Encoding) (x : Place) : Bytes :=
  toLe (x.addr % 2 ^ 32) 4 ++ toLe (x.addr / 2 ^ 32) 2 ++ toLe (pack [(⟨c.mem.type, 2⟩, x.mt.code)]) 2

/-- The absent key of a command without one: zero fields (R119). -/
def encodeNoKey : Bytes := toLe 0 8

/-- `shaBits` of the SHA form (R100, R106). -/
def encodeShaBits (n : Nat) : Bytes := toLe (n % 2 ^ 32) 4 ++ toLe (n / 2 ^ 32) 4

/-- The 32 bytes of a descriptor: `dw0`, the source, the 8 bytes of the destination or of `shaBits`, the 8 bytes of the key
(R100, R105, R106). -/
def encodeDesc (c : Encoding) (i : Instr) (src : Source) (dst key : Bytes) : Bytes :=
  toLe (i.dw0 c) 4 ++ encodeSource c src ++ dst ++ key

/-- The descriptor of a command, ignored bits 0 (R119). -/
def encodeWith (c : Encoding) (i : Instr) : Bytes :=
  match i with
  | .ptCopy _ src dst => encodeDesc c i src (encodePlace c dst) encodeNoKey
  | .ptSwap256 _ src dst => encodeDesc c i src (encodePlace c dst) encodeNoKey
  | .sha256 _ src shaBits => encodeDesc c i src (encodeShaBits shaBits) encodeNoKey
  | .sha384 _ src shaBits => encodeDesc c i src (encodeShaBits shaBits) encodeNoKey
  | .aes128EcbDec _ src dst key => encodeDesc c i src (encodePlace c dst) (encodePlace c key)
  | .aes128EcbEnc _ src dst key => encodeDesc c i src (encodePlace c dst) (encodePlace c key)
  | .aes128CbcDec _ src dst key => encodeDesc c i src (encodePlace c dst) (encodePlace c key)
  | .aes128CbcEnc _ src dst key => encodeDesc c i src (encodePlace c dst) (encodePlace c key)
  | .aes256EcbDec _ src dst key => encodeDesc c i src (encodePlace c dst) (encodePlace c key)
  | .aes256EcbEnc _ src dst key => encodeDesc c i src (encodePlace c dst) (encodePlace c key)
  | .aes256CbcDec _ src dst key => encodeDesc c i src (encodePlace c dst) (encodePlace c key)
  | .aes256CbcEnc _ src dst key => encodeDesc c i src (encodePlace c dst) (encodePlace c key)
  | .rsaModexp2048 _ src dst key => encodeDesc c i src (encodePlace c dst) (encodePlace c key)
  | .rsaModexp4096 _ src dst key => encodeDesc c i src (encodePlace c dst) (encodePlace c key)
  | .eccMulf _ src dst _ => encodeDesc c i src (encodePlace c dst) encodeNoKey
  | .eccAddf _ src dst _ => encodeDesc c i src (encodePlace c dst) encodeNoKey
  | .eccInvf _ src dst _ => encodeDesc c i src (encodePlace c dst) encodeNoKey
  | .eccMulc _ src dst _ => encodeDesc c i src (encodePlace c dst) encodeNoKey
  | .eccMuladdc _ src dst _ => encodeDesc c i src (encodePlace c dst) encodeNoKey
  | .zlibInflate _ src dst => encodeDesc c i src (encodePlace c dst) encodeNoKey

/-- The descriptor of a command in the default encoding. -/
def encode (i : Instr) : Bytes := encodeWith Encoding.default i

/-- The command the decoder reads, in the default encoding, from a descriptor whose bits are `w`, bit 0 the least significant
bit of `dw0`; bits at or above `nbits` are 0. -/
def decodeTableWord (nbits w : Nat) : Option Instr := (decode (toLe (w % 2 ^ nbits) 32)).toOption

end Sys2Proof
end

