-- ==== Sys2Proof/Machine/Layout.lean ====
section
/-! DEFINITION. The numbers of the device: what the source fixes (00_scope.md R5), and the default of every parameter that it
leaves to the configuration (92_eei_decisions.md D6 to D8, D10, D24, D36; logs 10, 11, 12). -/

namespace Sys2Proof.Machine

/-! ## What the source fixes (R5) -/

/-- `LSB_BYTES` (10_state.md R10). -/
def lsbBytes : Nat := 4096
/-- `LSB_SLOT_BYTES` (R10). -/
def lsbSlotBytes : Nat := 32
/-- `DESC_BYTES` (30_encoding.md R100). -/
def descBytes : Nat := 32
/-- Addresses are 48 bits (20_memory.md R59). -/
def addrLimit : Nat := 2 ^ 48
/-- `PT_CHUNK` (20_memory.md R66). -/
def ptChunk : Nat := 4096
/-- The piece of the SHA update loop (42_sha.md R173). -/
def shaChunk : Nat := 4096
/-- `AES_CHUNK` (R66). -/
def aesChunk : Nat := 512
/-- `ZLIB_IN_CHUNK` (46_zlib.md R243). -/
def zlibInChunk : Nat := 4096
/-- `ZLIB_OUT_BUF` (R245). -/
def zlibOutBuf : Nat := 4096
/-- `ECC_NUM_BYTES` (45_ecc.md R216). -/
def eccNumBytes : Nat := 72
/-- `ECC_MAX_BITS` (R215). -/
def eccMaxBits : Nat := 576
/-- `PROTECTED_KEY_LIMIT` (43_aes.md R189). -/
def protectedKeyLimit : Nat := 0xA0
/-- `MMIO_WIDTH` (48_mmio.md R277). -/
def mmioWidth : Nat := 32
/-- `SEC_OFF_WRITTEN` (R300). -/
def secOffWritten : Nat := 0x28
/-- `SEC_OFF_READY` (R301). -/
def secOffReady : Nat := 0x38
/-- `STATUS_SUCCESS` (10_state.md R16). -/
def statusSuccess : Word := 0
/-- `IRQ_PRIO` (60_exceptions.md R364). -/
def irqPrio : Nat := 0
/-- `IRQ_DEVID` (R364). -/
def irqDevId : Nat := 0x15

/-- The six registers of a queue that firmware sees (10_state.md R12, 48_mmio.md R276). -/
inductive QReg where
  | control
  | tail
  | head
  | ien
  | ists
  | status
  deriving DecidableEq, Repr

/-- The word with one bit set. -/
def bitMask (i : Fin 32) : Word := BitVec.twoPow 32 i

end Sys2Proof.Machine

namespace Sys2Proof

open Machine (QReg bitMask fieldsWf eccNumBytes)

/-! ## The primary register map (48_mmio.md R276, D7, log 10) -/

/-- `REG_CONTROL` to `REG_STATUS` of a register map. -/
def RegMap.offset (m : RegMap) : QReg → Nat
  | .control => m.control
  | .tail => m.tail
  | .head => m.head
  | .ien => m.ien
  | .ists => m.ists
  | .status => m.status

/-- The spec's default register map. -/
def RegMap.default : RegMap where
  qBase := 0x1000
  qStride := 0x1000
  control := 0x000
  tail := 0x004
  head := 0x008
  ien := 0x00C
  ists := 0x010
  status := 0x100

/-- The six offsets of a map. -/
def RegMap.offsets (m : RegMap) : List Nat := [m.control, m.tail, m.head, m.ien, m.ists, m.status]

/-- The registers of a block are distinct words inside it, and every register is at a multiple of 4 (R276, R287). -/
structure RegMap.WF (m : RegMap) : Prop where
  base : m.qBase % 4 = 0
  stride : m.qStride % 4 = 0
  inside : ∀ o ∈ m.offsets, o < m.qStride ∧ o % 4 = 0
  distinct : m.offsets.Nodup

/-! ## The bits of the queue registers (R279, D7, log 10) -/

/-- The spec's default bits. -/
def QueueBits.default : QueueBits where
  run := 0
  halt := 1
  size := ⟨3, 5⟩
  completion := 0
  error := 1
  qStop := 2
  qEmpty := 3

/-- The fields of `control` share no bit, and the four interrupt bits are distinct (R279). -/
structure QueueBits.WF (b : QueueBits) : Prop where
  control : fieldsWf 32 [⟨b.run, 1⟩, ⟨b.halt, 1⟩, b.size]
  interrupts : [b.completion, b.error, b.qStop, b.qEmpty].Nodup

/-- The four interrupt bits (R279). -/
def QueueBits.interrupts (b : QueueBits) : Word :=
  bitMask b.completion ||| bitMask b.error ||| bitMask b.qStop ||| bitMask b.qEmpty

/-- The spec gives the region bases and sizes no default and no use: the model's are 0 (DESIGN CHOICE, log 10). -/
def Windows.default : Windows where
  primaryBase := 0
  primarySize := 0
  secondaryBase := 0
  secondarySize := 0

/-! ## The ECC request block (45_ecc.md R217, D6, log 11) -/

/-- The spec's default table. -/
def EccLayout.default : EccLayout where
  mulf := { blen := 216, a := 72, b := 144 }
  addf := { blen := 216, a := 72, b := 144 }
  invf := { blen := 144, a := 72 }
  mulc := { blen := 360, k := 72, x := 144, y := 216, coefficient := 288 }
  muladdc := { blen := 576, k1 := 72, x1 := 144, y1 := 216, k2 := 288, x2 := 360, y2 := 432, coefficient := 504 }

/-- The prime at offset 0 and the numbers at the offsets `l` lie in a block of `blen` bytes and share no byte. -/
abbrev eccBlockWf (blen : Nat) (l : List Nat) : Prop := fieldsWf blen ((0 :: l).map fun o => ⟨o, eccNumBytes⟩)

/-- Every block holds its numbers (R216, R217). -/
structure EccLayout.WF (e : EccLayout) : Prop where
  mulf : eccBlockWf e.mulf.blen [e.mulf.a, e.mulf.b]
  addf : eccBlockWf e.addf.blen [e.addf.a, e.addf.b]
  invf : eccBlockWf e.invf.blen [e.invf.a]
  mulc : eccBlockWf e.mulc.blen [e.mulc.k, e.mulc.x, e.mulc.y, e.mulc.coefficient]
  muladdc : eccBlockWf e.muladdc.blen
    [e.muladdc.k1, e.muladdc.x1, e.muladdc.y1, e.muladdc.k2, e.muladdc.x2, e.muladdc.y2, e.muladdc.coefficient]

/-! ## All parameters -/

/-- The default of every parameter (R5; nothing unmapped, and a count that a session error keeps, are DESIGN CHOICES, logs 5 and 25). -/
def Params.default : Params where
  encoding := Encoding.default
  regs := RegMap.default
  bits := QueueBits.default
  windows := Windows.default
  ecc := EccLayout.default
  statusError := 1
  drainOnWrite := .ienWriteNonzero
  eccInfinity := .fault
  sessionErrorCount := .kept
  proxy := false
  unmapped := []

/-- What R5 asks of a configuration: its tables are what they describe, and `STATUS_ERROR` is non-zero. -/
structure Params.WF (p : Params) : Prop where
  encoding : p.encoding.WF
  regs : p.regs.WF
  bits : p.bits.WF
  ecc : p.ecc.WF
  statusError : p.statusError ≠ 0

end Sys2Proof
end

