-- ==== Sys2Proof/Machine/State.lean ====
section
/-! DEFINITION. The state of the device (10_state.md), of the LOCAL memory it acts on, and the model's own fields (host
events to come, answers given, the drain in progress), with the state after reset (R28, 70_reset_and_hazards.md R391). -/

namespace Sys2Proof.Machine

/-- A byte memory: the cells whose byte differs from `Memory.blank`, addresses strictly rising (`Memory.wf`). Both the LSB
and the LOCAL memory are held so. -/
structure Memory where
  cells : List Host.Cell
  deriving DecidableEq, Repr

/-- The two queues (R12). -/
inductive QId where
  | q0
  | q1
  deriving DecidableEq, Repr

/-- One queue (R12 to R19). -/
structure Queue where
  control : Word
  head : Word
  tail : Word
  status : Word
  ien : Word
  ists : Word
  enabled : Bool
  deriving DecidableEq, Repr

/-- The digest of a SHA session (R20). -/
inductive ShaType where
  | sha256
  | sha384
  deriving DecidableEq, Repr

/-- `sha_session` (R20): the type and the bytes fed so far. -/
structure ShaSession where
  type : ShaType
  msg : Bytes
  deriving DecidableEq, Repr

/-- The AES mode of operation (R21). -/
inductive AesMode where
  | ecb
  | cbc
  deriving DecidableEq, Repr

/-- The AES direction (R21). -/
inductive AesDir where
  | enc
  | dec
  deriving DecidableEq, Repr

/-- `aes_session` (R21). -/
structure AesSession where
  key : Bytes
  mode : AesMode
  dir : AesDir
  chain : Bytes
  pend : Bytes
  deriving DecidableEq, Repr

/-- `zlib_session` (R22), in its form as the input fed so far and the count of output bytes produced. -/
structure ZlibSession where
  zin : Bytes
  zout : Nat
  deriving DecidableEq, Repr

/-- What the host does to the device (48_mmio.md R275), and the host's own stores to LOCAL memory between accesses (R305).
`off` is a byte offset in the region, `width` the access size in bits. -/
inductive HostEvent where
  | primaryRead (off width : Nat)
  | primaryWrite (off width value : Nat)
  | secondaryRead (off width : Nat)
  | secondaryWrite (off width value : Nat)
  | localStore (addr : Nat) (data : Bytes)
  deriving DecidableEq, Repr

/-- The data an MMIO access returns: nothing for a write, a register word, or the unspecified value of a rejected read
(R277). -/
inductive ReadData where
  | none
  | word (v : Word)
  | rejected (v : Nat)
  deriving DecidableEq, Repr

/-- The call `irq.set(prio, devId, assert)` made at the end of an access (R293). -/
structure IrqCall where
  prio : Nat
  devId : Nat
  level : Bool
  deriving DecidableEq, Repr

/-- What a finished MMIO access gives the host (R275, R293). -/
structure Response where
  data : ReadData
  irq : IrqCall
  deriving DecidableEq, Repr

/-- What the access that runs a drain answers when the drain has stopped (R280, R289). -/
inductive Reply where
  | write
  | read (r : QReg)
  deriving DecidableEq, Repr

/-- Whether a drain is in progress (47_queue_controller.md R255), and for which access. -/
inductive Phase where
  | idle
  | draining (reply : Reply)
  deriving DecidableEq, Repr

/-- The machine's state. The first block is the device's (10_state.md), then the LOCAL memory and the parameters of the run
(R26), then the model's own fields (logs 1, 2, 7, 8, 17). -/
structure State where
  q0 : Queue
  q1 : Queue
  lsb : Memory
  sha : Option ShaSession
  aes : Option AesSession
  zlib : Option ZlibSession
  cbWrittenLast : Word
  irqLine : Bool
  localMem : Memory
  params : Params
  pending : List HostEvent
  responses : List Response
  phase : Phase
  cur : QId
  freeCount : Nat
  deriving DecidableEq, Repr

/-- Why a step stops with a fault. The spec stops the machine nowhere (every error of a command is the queue's failure
path, a next state: 60_exceptions.md R350), so there is no fault. -/
inductive Fault where
  deriving DecidableEq, Repr

/-- Why a step has no meaning. -/
inductive Refusal where
  /-- An instruction whose meaning is not written; raised by an arm of `exec` alone. Safe: nothing is claimed of it. -/
  | notModelled (mnemonic : String)
  deriving DecidableEq, Repr

/-! ## Updates, one per field -/

def State.queue (s : State) : QId → Queue
  | .q0 => s.q0
  | .q1 => s.q1

def State.setQueue (s : State) (q : QId) (v : Queue) : State :=
  match q with
  | .q0 => { s with q0 := v }
  | .q1 => { s with q1 := v }

def State.setLsb (s : State) (m : Memory) : State := { s with lsb := m }
def State.setSha (s : State) (v : Option ShaSession) : State := { s with sha := v }
def State.setAes (s : State) (v : Option AesSession) : State := { s with aes := v }
def State.setZlib (s : State) (v : Option ZlibSession) : State := { s with zlib := v }
def State.setWritten (s : State) (v : Word) : State := { s with cbWrittenLast := v }
def State.setIrq (s : State) (b : Bool) : State := { s with irqLine := b }
def State.setLocal (s : State) (m : Memory) : State := { s with localMem := m }
def State.setPending (s : State) (l : List HostEvent) : State := { s with pending := l }
def State.pushResponse (s : State) (r : Response) : State := { s with responses := r :: s.responses }
def State.setPhase (s : State) (p : Phase) : State := { s with phase := p }
def State.setCur (s : State) (q : QId) : State := { s with cur := q }
def State.bumpFree (s : State) : State := { s with freeCount := s.freeCount + 1 }

/-! ## Reset (R28, R391; 92_eei_decisions.md D9) -/

/-- A queue after reset: HALT set, everything else 0 (R28). -/
def Queue.start (b : QueueBits) : Queue where
  control := bitMask b.halt
  head := 0
  tail := 0
  status := 0
  ien := 0
  ists := 0
  enabled := false

/-- The start of a run with the parameters `p`, `LSB_INIT` and `LOCAL_INIT` (00_scope.md R5): both queues halted, no session,
the line low (R28), the model's own fields empty (logs 1, 2, 17). -/
def State.start (p : Params) (lsbInit localInit : Memory) : State where
  q0 := Queue.start p.bits
  q1 := Queue.start p.bits
  lsb := lsbInit
  sha := none
  aes := none
  zlib := none
  cbWrittenLast := 0
  irqLine := false
  localMem := localInit
  params := p
  pending := []
  responses := []
  phase := .idle
  cur := .q0
  freeCount := 0

/-- The machine after reset: the start of a run with the spec's defaults (R5). The LSB and LOCAL contents are the model's
choice (logs 3, 4). -/
def State.reset : State := State.start Params.default { cells := [] } { cells := [] }

end Sys2Proof.Machine
end

