-- ==== Sys2Proof/Machine/Flags.lean ====
section
/-! DEFINITION. Everything that computes a bit of a queue register: what the controller writes (47_queue_controller.md R256 to
R260), what a firmware write stores (48_mmio.md R282 to R288), which accesses trigger a drain (R290), and the interrupt
line (60_exceptions.md R364). -/

namespace Sys2Proof.Machine

/-- Step 1 of a drain: `HALT` is cleared (47_queue_controller.md R256). -/
def Queue.started (b : QueueBits) (q : Queue) : Queue := { q with control := q.control &&& ~~~bitMask b.halt }

/-- A command succeeded: status SUCCESS, `COMPLETION`, `head` advanced by 32 modulo 2^32 (R258). -/
def Queue.succeeded (b : QueueBits) (q : Queue) : Queue :=
  { q with
    status := statusSuccess
    ists := q.ists ||| bitMask b.completion
    head := q.head + BitVec.ofNat 32 descBytes }

/-- A command or its fetch failed: status ERROR, the `ERROR` bit, `head` left where it is (R259). -/
def Queue.failed (b : QueueBits) (err : BitVec 6) (q : Queue) : Queue :=
  { q with
    status := err.setWidth 32
    ists := q.ists ||| bitMask b.error }

/-- Step 3, the stop: `HALT`, `Q_STOP`, and `Q_EMPTY` exactly when `head = tail` (R260). -/
def Queue.stopped (b : QueueBits) (q : Queue) : Queue :=
  { q with
    control := q.control ||| bitMask b.halt
    ists := q.ists ||| bitMask b.qStop ||| (if q.head = q.tail then bitMask b.qEmpty else 0) }

/-- The stored word of a register (48_mmio.md R281). -/
def Queue.readReg (q : Queue) : QReg → Word
  | .control => q.control
  | .tail => q.tail
  | .head => q.head
  | .ien => q.ien
  | .ists => q.ists
  | .status => q.status

/-- A firmware write: `control` copies RUN into `enabled` and stores RUN as 0 (R282), `ists` is write-one-to-clear
(R288), the others are plain (R283 to R286). -/
def Queue.writeReg (b : QueueBits) (q : Queue) (r : QReg) (v : Word) : Queue :=
  match r with
  | .control => { q with enabled := (v &&& bitMask b.run) != 0, control := v &&& ~~~bitMask b.run }
  | .tail => { q with tail := v }
  | .head => { q with head := v }
  | .ien => { q with ien := v }
  | .ists => { q with ists := q.ists &&& ~~~v }
  | .status => { q with status := v }

/-- Whether a write to register `r`, after its store into `q`, is a drain trigger (R290). -/
def writeTriggers (p : Params) (q : Queue) (r : QReg) : Bool :=
  match r with
  | .control => false
  | .ien => q.ien != 0
  | _ => p.drainOnWrite == .anyWriteIenNonzero && q.ien != 0

/-- `(ien & ists) != 0` of one queue. -/
def Queue.wantsIrq (q : Queue) : Bool := (q.ien &&& q.ists) != 0

/-- The level of `irq_line`: the OR over the two queues (R364, 10_state.md R24). -/
def irqLevel (s : State) : Bool := s.q0.wantsIrq || s.q1.wantsIrq

end Sys2Proof.Machine
end

