-- ==== Sys2Proof/Machine/Ops.lean ====
section
/-! DEFINITION. The shared operations: byte memory, the address-space gateway (20_memory.md R50 to R59), the result of a
command, the success path and the failure path of the queue controller (47_queue_controller.md R258 to R261,
60_exceptions.md R350, R367), the end of an MMIO access (48_mmio.md R289, R293). -/

namespace Sys2Proof.Machine

/-! ## Byte memory -/

/-- What an unlisted address reads as (logs 3, 4). -/
def Memory.blank : Byte := 0

def Memory.cellAt : List Host.Cell → Nat → Byte
  | [], _ => Memory.blank
  | (a, b) :: t, x => if a = x then b else Memory.cellAt t x

def Memory.putCell : List Host.Cell → Nat → Byte → List Host.Cell
  | [], x, v => if v = Memory.blank then [] else [(x, v)]
  | (a, b) :: t, x, v =>
    if x < a then (if v = Memory.blank then (a, b) :: t else (x, v) :: (a, b) :: t)
    else if x = a then (if v = Memory.blank then t else (a, v) :: t)
    else (a, b) :: Memory.putCell t x v

/-- The byte at an address. -/
def Memory.read (m : Memory) (x : Nat) : Byte := Memory.cellAt m.cells x

/-- One byte stored; the canonical form is kept. -/
def Memory.write (m : Memory) (x : Nat) (v : Byte) : Memory where
  cells := Memory.putCell m.cells x v

/-- The `n` bytes from `a` upward. -/
def Memory.readBytes (m : Memory) (a : Nat) : Nat → Bytes
  | 0 => []
  | n + 1 => m.read a :: Memory.readBytes m (a + 1) n

/-- The bytes of `v` stored from `a` upward. -/
def Memory.writeBytes (m : Memory) (a : Nat) : Bytes → Memory
  | [] => m
  | b :: t => Memory.writeBytes (m.write a b) (a + 1) t

/-- Every listed address is at least `lo`, below `hi`, the addresses rise strictly, and no listed byte is the blank one. -/
def Memory.cellsWf (hi : Nat) : Nat → List Host.Cell → Bool
  | _, [] => true
  | lo, (a, b) :: t => decide (lo ≤ a) && decide (a < hi) && decide (b ≠ Memory.blank) && Memory.cellsWf hi (a + 1) t

/-- The canonical form of a memory of `size` bytes. -/
def Memory.wf (size : Nat) (m : Memory) : Bool := Memory.cellsWf size 0 m.cells

/-! ## The result of a command (R350, R351) -/

/-- The six error kinds (60_exceptions.md R351). A kind is a ghost value: no register shows it (R352). -/
inductive ErrKind where
  | outOfRange
  | notImplemented
  | unsupported
  | engineError
  | proxyError
  | decodeError
  deriving DecidableEq, Repr

/-- What a part of a command does: it goes on with a value, or it raises; in both cases the state as written so far
stays (R350). -/
inductive Res (α : Type) where
  | ok (a : α) (s : State)
  | raise (k : ErrKind) (s : State)
  deriving DecidableEq, Repr

/-- Goes on with `f` unless the command has raised. -/
def Res.andThen {α β : Type} (r : Res α) (f : α → State → Res β) : Res β :=
  match r with
  | .ok a s => f a s
  | .raise k s => .raise k s

/-- A read, which changes no state, as a part of a command. -/
def Res.ofRead {α : Type} (s : State) (r : Except ErrKind α) : Res α :=
  match r with
  | .ok a => .ok a s
  | .error k => .raise k s

/-- What happens to the engine's own session when the command raises (40_dispatch.md R146). -/
def Res.onRaise {α : Type} (f : State → State) (r : Res α) : Res α :=
  match r with
  | .ok a s => .ok a s
  | .raise k s => .raise k (f s)

/-! ## The gateway (20_memory.md R51 to R59) -/

/-- Whether the I/O manager serves every byte of `[addr, addr + n)` (R54). -/
def mappedRange (p : Params) (addr n : Nat) : Bool :=
  p.unmapped.all fun r => decide (min (addr + n) (r.base + r.size) ≤ max addr r.base)

/-- `ioManager.pspRead` (R54): all `n` bytes or a failure. -/
def pspRead (s : State) (addr n : Nat) : Option Bytes :=
  if mappedRange s.params addr n then some (s.localMem.readBytes addr n) else none

/-- `ioManager.pspWrite` (R54): all bytes or a failure. -/
def pspWrite (s : State) (addr : Nat) (v : Bytes) : Option State :=
  if mappedRange s.params addr v.length then some (s.setLocal (s.localMem.writeBytes addr v)) else none

/-- The LSB bounds rule (R55), on naturals. -/
def lsbInRange (addr n : Nat) : Bool := decide (addr < lsbBytes) && decide (addr + n ≤ lsbBytes)

/-- `MemRead(mt, addr, n)` for `n ≥ 1` (R52, R55 to R59). -/
def memRead (s : State) (mt : MemType) (addr n : Nat) : Except ErrKind Bytes :=
  match mt with
  | .system => .error .unsupported
  | .sb => if lsbInRange addr n then .ok (s.lsb.readBytes addr n) else .error .outOfRange
  | .localMem =>
    if addr + n ≤ addrLimit then
      match pspRead s addr n with
      | some v => .ok v
      | none => .error .engineError
    else .error .outOfRange
  | .code3 => .error .unsupported

/-- `MemWrite(mt, addr, n, v)` for `n = len(v) ≥ 1` (R53, R55 to R59); a LOCAL write adds `n` to `cbWrittenLast`
(10_state.md R23). -/
def memWrite (s : State) (mt : MemType) (addr : Nat) (v : Bytes) : Except ErrKind State :=
  match mt with
  | .system => .error .unsupported
  | .sb => if lsbInRange addr v.length then .ok (s.setLsb (s.lsb.writeBytes addr v)) else .error .outOfRange
  | .localMem =>
    if addr + v.length ≤ addrLimit then
      match pspWrite s addr v with
      | some t => .ok (t.setWritten (t.cbWrittenLast + BitVec.ofNat 32 v.length))
      | none => .error .engineError
    else .error .outOfRange
  | .code3 => .error .unsupported

/-! ## The end of an MMIO access (48_mmio.md R289, R293) -/

/-- The interrupt line is re-evaluated, `irq.set` is called with its level, and the access answers `d` (R293, R365). -/
def respond (d : ReadData) (s : State) : State :=
  (s.setIrq (irqLevel s)).pushResponse
    { data := d, irq := { prio := irqPrio, devId := irqDevId, level := irqLevel s } }

/-- What the access that ran the drain returns: a read samples its register after the drain (R280). -/
def Reply.data (q : Queue) : Reply → ReadData
  | .write => .none
  | .read r => .word (q.readReg r)

/-- The end of the access that ran the drain. -/
def finishAccess (s : State) : State :=
  match s.phase with
  | .idle => s
  | .draining reply => respond (reply.data (s.queue s.cur)) (s.setPhase .idle)

/-- The stop of the drain of queue `cur` (47_queue_controller.md R260). -/
def stopDrain (s : State) : State := s.setQueue s.cur ((s.queue s.cur).stopped s.params.bits)

/-! ## The two ends of a command (47_queue_controller.md R258, R259) -/

/-- The success path (R258): the drain goes on with the next descriptor. -/
def complete (s : State) : State := s.setQueue s.cur ((s.queue s.cur).succeeded s.params.bits)

/-- TAKING AN ERROR, the device's one trap entry (60_exceptions.md R350, R367): the failure path of R259, then the stop of
R260 and the end of the access. `head` plays the part of the saved program counter and is left at the failing descriptor;
all six kinds have the same effect (R352). There is no trap return (R369): the host resumes the queue by MMIO accesses. -/
def takeError (_kind : ErrKind) (s : State) : State :=
  finishAccess (stopDrain (s.setQueue s.cur ((s.queue s.cur).failed s.params.bits s.params.statusError)))

/-- The controller's use of a command's outcome (R258, R259). -/
def retire {α : Type} (r : Res α) : Host.Outcome State Fault Refusal :=
  match r with
  | .ok _ s => .next (complete s)
  | .raise k s => .next (takeError k s)

end Sys2Proof.Machine
end

