-- ==== Sys2Proof/Machine/Operands.lean ====
section
/-! DEFINITION. How a command reads its operands and writes its result: the transfer context (20_memory.md R60 to R66) and
the direct reads of keys and of the IV slot (43_aes.md R187, R188; 44_rsa.md R207). -/

namespace Sys2Proof.Machine

/-- The transfer context of one command (R60): transient, never part of the state (10_state.md R26). `wrLeft = none` is the
unbounded write count of ZLIB. -/
structure Xfer where
  srcMt : MemType
  srcAddr : Nat
  rdLeft : Nat
  dstMt : MemType
  dstAddr : Nat
  wrLeft : Option Nat
  reverse : Bool
  deriving DecidableEq, Repr

/-- LSB byte address of a context id: `32 * ctx` (R61, 43_aes.md R188). -/
def slotAddr (ctx : Nat) : Nat := lsbSlotBytes * ctx

/-- The destination of a SHA command (R61): the LSB at the slot of the context id. -/
def shaDest (src : Source) : Place where
  addr := slotAddr src.ctx
  mt := .sb

/-- `XferInit` (R60): the context; the destination address is biased by the write count when `reverse`. -/
def xferOf (src : Source) (dst : Place) (nwrite : Option Nat) (reverse : Bool) : Xfer where
  srcMt := src.mt
  srcAddr := src.addr
  rdLeft := src.cbSrc
  dstMt := dst.mt
  dstAddr := if reverse then dst.addr + nwrite.getD 0 else dst.addr
  wrLeft := nwrite
  reverse := reverse

/-- `XferInit` (R60): `cbWrittenLast <- 0`. -/
def xferClear (s : State) : State := s.setWritten 0

/-- The error of a command that finds its engine's session open with other parameters (42_sha.md R179, 43_aes.md R201). The
procedures raise it in phase 2, before `XferInit` (R173, R190), and R350 then leaves `cbWrittenLast` as it is; R180 (e), R203 (e),
R248, R394 and R409 say that every command past phase 1 clears it. Both readings are modelled, as a parameter of the model's
own: DESIGN CHOICE, log 25. -/
def sessionMismatch {α : Type} (s : State) : Res α :=
  .raise .engineError
    (match s.params.sessionErrorCount with
    | .kept => s
    | .cleared => xferClear s)

/-- `XferRead(n)`, `n ≥ 1` (R62). -/
def xferRead (x : Xfer) (n : Nat) (s : State) : Except ErrKind (Bytes × Xfer) :=
  if n ≤ x.rdLeft then
    match memRead s x.srcMt x.srcAddr n with
    | .ok v => .ok (v, { x with srcAddr := x.srcAddr + n, rdLeft := x.rdLeft - n })
    | .error k => .error k
  else .error .outOfRange

/-- `XferReadUpTo(n)` (R65): the form that accepts a partial transfer. -/
def xferReadUpTo (x : Xfer) (n : Nat) (s : State) : Except ErrKind (Bytes × Xfer) :=
  if x.rdLeft = 0 then .ok ([], x) else xferRead x (min n x.rdLeft) s

/-- Whether `n` more bytes fit the write budget. -/
def Xfer.fits (x : Xfer) (n : Nat) : Bool :=
  match x.wrLeft with
  | none => true
  | some k => decide (n ≤ k)

/-- The write budget after `n` bytes. -/
def Xfer.spend (x : Xfer) (n : Nat) : Option Nat := x.wrLeft.map (· - n)

/-- The byte-by-byte downward write of reverse mode (R64): one gateway call per byte, each of which may raise after the
bytes before it have been written. -/
def xferWriteDown (x : Xfer) : Bytes → State → Res Xfer
  | [], s => .ok x s
  | b :: t, s =>
    match memWrite s x.dstMt (x.dstAddr - 1) [b] with
    | .ok s1 => xferWriteDown { x with dstAddr := x.dstAddr - 1, wrLeft := x.spend 1 } t s1
    | .error k => .raise k s

/-- `XferWrite(v)`, `len(v) ≥ 1` (R63, R64). -/
def xferWrite (x : Xfer) (v : Bytes) (s : State) : Res Xfer :=
  if x.fits v.length then
    if x.reverse then xferWriteDown x v s
    else
      match memWrite s x.dstMt x.dstAddr v with
      | .ok s1 => .ok { x with dstAddr := x.dstAddr + v.length, wrLeft := x.spend v.length } s1
      | .error k => .raise k s
  else .raise .outOfRange s

/-- `XferWrite` of what may be no byte at all: the gateway is never called with none (R58). -/
def xferWriteSome (x : Xfer) (v : Bytes) (s : State) : Res Xfer :=
  if v = [] then .ok x s else xferWrite x v s

/-- A direct gateway read of a key operand (43_aes.md R187, 44_rsa.md R207): not through the transfer context. -/
def readKey (s : State) (key : Place) (n : Nat) : Except ErrKind Bytes := memRead s key.mt key.addr n

/-- The 16 bytes of the IV slot as they lie in the LSB (43_aes.md R188, R189); always in range for a context id below 128. -/
def readIvSlot (s : State) (ctx : Nat) : Bytes := s.lsb.readBytes (slotAddr ctx) 16

end Sys2Proof.Machine
end

