-- ==== Sys2Proof/Machine/Aes.lean ====
section
/-! DEFINITION. The AES engine (43_aes.md R185 to R203). Unsupported function values are rejected by the decoder (R185). -/

namespace Sys2Proof.Machine

/-- The parameters of one of the eight commands (R185): `klen`, `mode`, `dir`. -/
structure AesParams where
  klen : Nat
  mode : AesMode
  dir : AesDir
  deriving DecidableEq, Repr

/-- The operands of an AES command (R185). -/
structure AesReq where
  fl : MsgFlags
  src : Source
  dst : Place
  key : Place
  deriving DecidableEq, Repr

/-- `Block(b)` with the session's key, mode, direction and chaining value: the output block and the new chaining value
(R191). -/
def aesBlock (sess : AesSession) (b : Bytes) : Bytes × Bytes :=
  match sess.mode, sess.dir with
  | .ecb, .enc => (aesEnc sess.key b, sess.chain)
  | .ecb, .dec => (aesDec sess.key b, sess.chain)
  | .cbc, .enc => (aesEnc sess.key (xorBytes b sess.chain), aesEnc sess.key (xorBytes b sess.chain))
  | .cbc, .dec => (xorBytes (aesDec sess.key b) sess.chain, b)

/-- Whole blocks in order: their output, and the session with the chaining value after the last (R190, R191). -/
def aesBlocks (sess : AesSession) : List Bytes → Bytes × AesSession
  | [] => ([], sess)
  | b :: bs =>
    let r := aesBlock sess b
    let rest := aesBlocks { sess with chain := r.2 } bs
    (r.1 ++ rest.1, rest.2)

/-- One piece of input (R190): the pending bytes go first, whole blocks are processed, the remainder becomes pending. -/
def aesFeed (sess : AesSession) (v : Bytes) : Bytes × AesSession :=
  let buf := sess.pend ++ v
  let k := buf.length / 16
  let r := aesBlocks sess (pieces 16 k buf)
  (r.1, { r.2 with pend := buf.drop (16 * k) })

/-- The feeding loop (R190). -/
def aesLoop : Nat → AesSession → Xfer → State → Res (AesSession × Xfer)
  | 0, sess, x, s => .ok (sess, x) s
  | fuel + 1, sess, x, s =>
    if x.rdLeft = 0 then .ok (sess, x) s
    else
      (Res.ofRead s (xferRead x (min aesChunk x.rdLeft) s)).andThen fun p s1 =>
        (xferWriteSome p.2 (aesFeed sess p.1).1 s1).andThen fun x2 s2 => aesLoop fuel (aesFeed sess p.1).2 x2 s2

/-- The session that a starting command makes (R186 to R188): the key reversed; in CBC the IV of slot `src_ctx` reversed, in
ECB sixteen zero bytes that are never used. -/
def aesStart (p : AesParams) (r : AesReq) (s : State) : Except ErrKind AesSession :=
  match readKey s r.key p.klen with
  | .error k => .error k
  | .ok kb =>
    .ok
      { key := kb.reverse
        mode := p.mode
        dir := p.dir
        chain :=
          match p.mode with
          | .cbc => (readIvSlot s r.src.ctx).reverse
          | .ecb => List.replicate 16 0
        pend := [] }

/-- Whether a command may continue a session: same key length, mode and direction (R201). -/
def aesMatches (p : AesParams) (sess : AesSession) : Bool :=
  sess.key.length == p.klen && sess.mode == p.mode && sess.dir == p.dir

/-- Finalisation on `eom` (R192): a ragged message is an error, else the session is emptied; without `eom` the session is
kept. -/
def aesClose (eom : Bool) (sess : AesSession) (x : Xfer) (s : State) : Res Xfer :=
  if eom then if sess.pend = [] then .ok x (s.setAes none) else .raise .engineError s
  else .ok x (s.setAes (some sess))

/-- The AES procedure, local path (R190). What a session of other parameters (R201) leaves in `cbWrittenLast` (R190 and R350
against R203 (e), R248 and R394) is a parameter: DESIGN CHOICE, log 25. -/
def aesLocal (p : AesParams) (r : AesReq) (s : State) : Res Xfer :=
  match (if r.fl.init then none else s.aes) with
  | none =>
    (Res.ofRead (xferClear s) (aesStart p r (xferClear s))).andThen fun sess s1 =>
      (aesLoop r.src.cbSrc sess (xferOf r.src r.dst (some r.src.cbSrc) false) s1).andThen fun q s2 =>
        aesClose r.fl.eom q.1 q.2 s2
  | some sess =>
    if aesMatches p sess then
      (aesLoop r.src.cbSrc sess (xferOf r.src r.dst (some (r.src.cbSrc + sess.pend.length)) false) (xferClear s)).andThen
        fun q s2 => aesClose r.fl.eom q.1 q.2 s2
    else sessionMismatch s

/-- The source bytes of a proxy command, read in one piece (R189). -/
def proxySource (x : Xfer) (s : State) : Except ErrKind (Bytes × Xfer) :=
  if x.rdLeft = 0 then .ok ([], x) else xferRead x x.rdLeft s

/-- The output bytes of the proxy call number `k` (R189, log 8): free values, `cbSrc` of them. -/
def proxyOut (k : Nat) (call : ProxyCall) : Bytes := (List.range call.cbSrc).map (Config.proxyByte k call)

/-- The IV that a proxy command passes on (R189): in CBC the bytes of slot `src_ctx` as they lie there, else none. -/
def proxyIv (p : AesParams) (r : AesReq) (s : State) : Bytes :=
  match p.mode with
  | .cbc => readIvSlot s r.src.ctx
  | .ecb => []

/-- The arguments of the call (R189); ignored bits of `dw0` count as 0 (30_encoding.md R116, log 8). -/
def proxyCall (dw0 : Nat) (p : AesParams) (r : AesReq) (src : Bytes) (s : State) : ProxyCall where
  dw0 := dw0
  cbSrc := r.src.cbSrc
  src := src
  keyAddr := r.key.addr
  iv := proxyIv p r s

/-- The protected-key path with a proxy (R189): the session is not used; the proxy's answer to the call is a free value. -/
def aesProxy (dw0 : Nat) (p : AesParams) (r : AesReq) (s : State) : Res Xfer :=
  (Res.ofRead (xferClear s)
      (proxySource (xferOf r.src r.dst (some r.src.cbSrc) false) (xferClear s))).andThen fun q s1 =>
    let call := proxyCall dw0 p r q.1 s1
    if Config.proxyFails s1.freeCount call then .raise .proxyError s1.bumpFree
    else xferWriteSome q.2 (proxyOut s1.freeCount call) s1.bumpFree

/-- The protected-key test (R189). -/
def protectedKey (key : Place) : Bool := key.mt == .sb && decide (key.addr < protectedKeyLimit)

/-- An AES command after phase 1 (R189, R190); any error empties the session (R202). `dw0` is the command's, for the proxy. -/
def aesCommand (dw0 : Nat) (p : AesParams) (r : AesReq) (s : State) : Res Xfer :=
  Res.onRaise (fun s => s.setAes none)
    (if s.params.proxy && protectedKey r.key then aesProxy dw0 p r s else aesLocal p r s)

/-- The meaning of `aes.128.ecb.enc` (R193). -/
def execAes128EcbEnc (fl : MsgFlags) (src : Source) (dst key : Place) (s : State) : Host.Outcome State Fault Refusal :=
  retire (aesCommand ((Instr.aes128EcbEnc fl src dst key).dw0 s.params.encoding) ⟨16, .ecb, .enc⟩ ⟨fl, src, dst, key⟩ s)

/-- The meaning of `aes.128.ecb.dec` (R194). -/
def execAes128EcbDec (fl : MsgFlags) (src : Source) (dst key : Place) (s : State) : Host.Outcome State Fault Refusal :=
  retire (aesCommand ((Instr.aes128EcbDec fl src dst key).dw0 s.params.encoding) ⟨16, .ecb, .dec⟩ ⟨fl, src, dst, key⟩ s)

/-- The meaning of `aes.128.cbc.enc` (R195). -/
def execAes128CbcEnc (fl : MsgFlags) (src : Source) (dst key : Place) (s : State) : Host.Outcome State Fault Refusal :=
  retire (aesCommand ((Instr.aes128CbcEnc fl src dst key).dw0 s.params.encoding) ⟨16, .cbc, .enc⟩ ⟨fl, src, dst, key⟩ s)

/-- The meaning of `aes.128.cbc.dec` (R196). -/
def execAes128CbcDec (fl : MsgFlags) (src : Source) (dst key : Place) (s : State) : Host.Outcome State Fault Refusal :=
  retire (aesCommand ((Instr.aes128CbcDec fl src dst key).dw0 s.params.encoding) ⟨16, .cbc, .dec⟩ ⟨fl, src, dst, key⟩ s)

/-- The meaning of `aes.256.ecb.enc` (R197). -/
def execAes256EcbEnc (fl : MsgFlags) (src : Source) (dst key : Place) (s : State) : Host.Outcome State Fault Refusal :=
  retire (aesCommand ((Instr.aes256EcbEnc fl src dst key).dw0 s.params.encoding) ⟨32, .ecb, .enc⟩ ⟨fl, src, dst, key⟩ s)

/-- The meaning of `aes.256.ecb.dec` (R198). -/
def execAes256EcbDec (fl : MsgFlags) (src : Source) (dst key : Place) (s : State) : Host.Outcome State Fault Refusal :=
  retire (aesCommand ((Instr.aes256EcbDec fl src dst key).dw0 s.params.encoding) ⟨32, .ecb, .dec⟩ ⟨fl, src, dst, key⟩ s)

/-- The meaning of `aes.256.cbc.enc` (R199). -/
def execAes256CbcEnc (fl : MsgFlags) (src : Source) (dst key : Place) (s : State) : Host.Outcome State Fault Refusal :=
  retire (aesCommand ((Instr.aes256CbcEnc fl src dst key).dw0 s.params.encoding) ⟨32, .cbc, .enc⟩ ⟨fl, src, dst, key⟩ s)

/-- The meaning of `aes.256.cbc.dec` (R200). -/
def execAes256CbcDec (fl : MsgFlags) (src : Source) (dst key : Place) (s : State) : Host.Outcome State Fault Refusal :=
  retire (aesCommand ((Instr.aes256CbcDec fl src dst key).dw0 s.params.encoding) ⟨32, .cbc, .dec⟩ ⟨fl, src, dst, key⟩ s)

end Sys2Proof.Machine
end

