-- ==== Sys2Proof/Machine/Rsa.lean ====
section
/-! DEFINITION. The RSA engine (44_rsa.md R205 to R212). Unsupported function values are rejected by the decoder (R205). -/

namespace Sys2Proof.Machine

/-- `(b ^ e) mod n` for `e < 2 ^ fuel`, by repeated squaring (R207). -/
def powMod : Nat → Nat → Nat → Nat → Nat
  | 0, _, _, n => 1 % n
  | fuel + 1, b, e, n =>
    if e = 0 then 1 % n
    else
      let h := powMod fuel b (e / 2) n
      if e % 2 = 1 then h * h % n * b % n else h * h % n

/-- The computation of R207 on the key bytes and the source bytes: `m ≥ n` is an error, else the `size` bytes of
`m ^ e mod n`, most significant first. -/
def rsaResult (size : Nat) (kb data : Bytes) : Except ErrKind Bytes :=
  let e := le kb
  let n := le (slice data 0 size)
  let m := le (slice data size size)
  if n ≤ m then .error .engineError else .ok (toBe (powMod (8 * size) m e n) size)

/-- The RSA procedure (R207). -/
def rsaCommand (size : Nat) (src : Source) (dst key : Place) (s : State) : Res Xfer :=
  (Res.ofRead (xferClear s) (readKey (xferClear s) key size)).andThen fun kb s1 =>
    (Res.ofRead s1 (xferRead (xferOf src dst (some size) true) (2 * size) s1)).andThen fun p s2 =>
      (Res.ofRead s2 (rsaResult size kb p.1)).andThen fun c s3 => xferWrite p.2 c s3

/-- The meaning of `rsa.modexp.2048` (R208). -/
def execRsaModexp2048 (_fl : MsgFlags) (src : Source) (dst key : Place) (s : State) : Host.Outcome State Fault Refusal :=
  retire (rsaCommand 256 src dst key s)

/-- The meaning of `rsa.modexp.4096` (R209). -/
def execRsaModexp4096 (_fl : MsgFlags) (src : Source) (dst key : Place) (s : State) : Host.Outcome State Fault Refusal :=
  retire (rsaCommand 512 src dst key s)

end Sys2Proof.Machine
end

