-- ==== Sys2Proof/Machine/P384.lean ====
section
/-! DEFINITION. Arithmetic modulo the P-384 prime and on the P-384 curve (49_reference_algorithms.md R320 to R324). -/

namespace Sys2Proof.Machine

/-- `P384_PRIME` (45_ecc.md R218, R320). -/
def p384Prime : Nat := 2 ^ 384 - 2 ^ 128 - 2 ^ 96 + 2 ^ 32 - 1

/-- `A384 = p - 3` (R320). -/
def p384A : Nat := p384Prime - 3

/-- `B384` (R320). -/
def p384B : Nat :=
  0xB3312FA7E23EE7E4988E056BE3F82D19181D9C6EFE8141120314088F5013875AC656398D8A2ED19D2A85C8EDD3EC2AEF

/-- `N384`, the order of the group (R320). -/
def p384Order : Nat :=
  0xFFFFFFFFFFFFFFFFFFFFFFFFFFFFFFFFFFFFFFFFFFFFFFFFC7634D81F4372DDF581A0DB248B0A77AECEC196ACCC52973

/-- `G.x` (R320); not used by the device. -/
def p384Gx : Nat :=
  0xAA87CA22BE8B05378EB1C71EF320AD746E1D3B628BA79B9859F741E082542A385502F25DBF55296C3A545E3872760AB7

/-- `G.y` (R320); not used by the device. -/
def p384Gy : Nat :=
  0x3617DE4A96262C6F5D9E98BF9292DC29F8F41DBD289A147CE9DA3113B5F0B8C00A60B1CE1D7E819D7A431D7C90EA0E5F

/-! ## The field (R321) -/

def fpAdd (a b : Nat) : Nat := (a + b) % p384Prime
def fpMul (a b : Nat) : Nat := a * b % p384Prime

/-- `(a - b) mod p` in `[0, p)` (R321). -/
def fpSub (a b : Nat) : Nat := (a + (p384Prime - b % p384Prime)) % p384Prime

/-- `inv(a) = a^(p-2) mod p` (R321). -/
def fpInv (a : Nat) : Nat := powMod 384 (a % p384Prime) (p384Prime - 2) p384Prime

/-! ## The group (R322 to R324) -/

/-- A point: `O` or an affine pair (R322). -/
inductive Point where
  | infinity
  | affine (x y : Nat)
  deriving DecidableEq, Repr

/-- `(x, y)` is on the curve (R324). -/
def onCurve (x y : Nat) : Bool :=
  decide (x < p384Prime) && decide (y < p384Prime) &&
    fpMul y y == fpAdd (fpMul (fpMul x x) x) (fpAdd (fpMul p384A x) p384B)

/-- The sum of two affine points with slope `l` (R322). -/
def chord (l x1 y1 x2 : Nat) : Point :=
  let x3 := fpSub (fpSub (fpMul l l) x1) x2
  .affine x3 (fpSub (fpMul l (fpSub x1 x3)) y1)

/-- The group law (R322). -/
def pointAdd : Point → Point → Point
  | .infinity, q => q
  | p, .infinity => p
  | .affine x1 y1, .affine x2 y2 =>
    if x1 = x2 ∧ (y1 + y2) % p384Prime = 0 then .infinity
    else if x1 = x2 ∧ y1 = y2 then
      chord (fpMul (fpAdd (fpMul 3 (fpMul x1 x1)) p384A) (fpInv (fpMul 2 y1))) x1 y1 x2
    else chord (fpMul (fpSub y2 y1) (fpInv (fpSub x2 x1))) x1 y1 x2

/-- `-(x, y) = (x, (p - y) mod p)` (R322). -/
def pointNeg : Point → Point
  | .infinity => .infinity
  | .affine x y => .affine x ((p384Prime - y) % p384Prime)

/-- `k·P` for `k < 2 ^ fuel`, by double-and-add from the most significant bit (R323). -/
def pointMul : Nat → Nat → Point → Point
  | 0, _, _ => .infinity
  | fuel + 1, k, p =>
    if k = 0 then .infinity
    else
      let h := pointMul fuel (k / 2) p
      if k % 2 = 1 then pointAdd (pointAdd h h) p else pointAdd h h

end Sys2Proof.Machine
end

