-- ==== Sys2Proof/Machine/Ecc.lean ====
section
/-! DEFINITION. The ECC engine (45_ecc.md R215 to R232). The block layout is a parameter (R217, log 11). -/

namespace Sys2Proof.Machine

/-- The 72-byte little-endian number at offset `off` of the request block (R216). -/
def eccNum (blk : Bytes) (off : Nat) : Nat := le (slice blk off eccNumBytes)

/-- A result number (R216). -/
def eccEnc (v : Nat) : Bytes := toLe v eccNumBytes

/-- `ecc.mulf` on the block (R220). -/
def eccMulF (l : EccFieldBlock) (blk : Bytes) : Except ErrKind Bytes :=
  .ok (eccEnc (fpMul (eccNum blk l.a) (eccNum blk l.b)))

/-- `ecc.addf` on the block (R221). -/
def eccAddF (l : EccFieldBlock) (blk : Bytes) : Except ErrKind Bytes :=
  .ok (eccEnc (fpAdd (eccNum blk l.a) (eccNum blk l.b)))

/-- `ecc.invf` on the block: no inverse of a multiple of the prime (R222). -/
def eccInvF (l : EccInvBlock) (blk : Bytes) : Except ErrKind Bytes :=
  if eccNum blk l.a % p384Prime = 0 then .error .engineError else .ok (eccEnc (fpInv (eccNum blk l.a)))

/-- `encode(R)` (R226): X then Y; `O` fails or is 144 zero bytes, as `ECC_INFINITY` says. -/
def eccEncodePoint (inf : EccInfinity) : Point → Except ErrKind Bytes
  | .affine x y => .ok (eccEnc x ++ eccEnc y)
  | .infinity =>
    match inf with
    | .fault => .error .engineError
    | .zero => .ok (List.replicate (2 * eccNumBytes) 0)

/-- `k·P` for a 576-bit scalar (R223, R323). -/
def eccScalarMul (k x y : Nat) : Point := pointMul (8 * eccNumBytes) k (.affine x y)

/-- `ecc.mulc` on the block: the point must be on the curve (R223, R225); the coefficient is ignored (R227). -/
def eccMulC (l : EccMulBlock) (inf : EccInfinity) (blk : Bytes) : Except ErrKind Bytes :=
  if onCurve (eccNum blk l.x) (eccNum blk l.y) then
    eccEncodePoint inf (eccScalarMul (eccNum blk l.k) (eccNum blk l.x) (eccNum blk l.y))
  else .error .engineError

/-- `ecc.muladdc` on the block (R224, R225, R227). -/
def eccMulAddC (l : EccMulAddBlock) (inf : EccInfinity) (blk : Bytes) : Except ErrKind Bytes :=
  if onCurve (eccNum blk l.x1) (eccNum blk l.y1) && onCurve (eccNum blk l.x2) (eccNum blk l.y2) then
    eccEncodePoint inf
      (pointAdd (eccScalarMul (eccNum blk l.k1) (eccNum blk l.x1) (eccNum blk l.y1))
        (eccScalarMul (eccNum blk l.k2) (eccNum blk l.x2) (eccNum blk l.y2)))
  else .error .engineError

/-- The prime check, then the operation (R218, R219): the prime is the number at offset 0. -/
def eccCompute (op : Bytes → Except ErrKind Bytes) (blk : Bytes) : Except ErrKind Bytes :=
  if eccNum blk 0 = p384Prime then op blk else .error .notImplemented

/-- The ECC procedure (R219): `blen` and `rlen` are the block and result bytes of R217; `bits > 576` is `NotImplemented` in
phase 1 (R215). -/
def eccCommand (blen rlen : Nat) (op : Bytes → Except ErrKind Bytes) (src : Source) (dst : Place) (bits : Nat)
    (s : State) : Res Xfer :=
  if eccMaxBits < bits then .raise .notImplemented s
  else
    (Res.ofRead (xferClear s) (xferRead (xferOf src dst (some rlen) false) blen (xferClear s))).andThen fun p s1 =>
      (Res.ofRead s1 (eccCompute op p.1)).andThen fun r s2 => xferWrite p.2 r s2

/-- The meaning of `ecc.mulf` (R220). -/
def execEccMulf (_fl : MsgFlags) (src : Source) (dst : Place) (bits : Nat) (s : State) :
    Host.Outcome State Fault Refusal :=
  retire (eccCommand s.params.ecc.mulf.blen eccNumBytes (eccMulF s.params.ecc.mulf) src dst bits s)

/-- The meaning of `ecc.addf` (R221). -/
def execEccAddf (_fl : MsgFlags) (src : Source) (dst : Place) (bits : Nat) (s : State) :
    Host.Outcome State Fault Refusal :=
  retire (eccCommand s.params.ecc.addf.blen eccNumBytes (eccAddF s.params.ecc.addf) src dst bits s)

/-- The meaning of `ecc.invf` (R222). -/
def execEccInvf (_fl : MsgFlags) (src : Source) (dst : Place) (bits : Nat) (s : State) :
    Host.Outcome State Fault Refusal :=
  retire (eccCommand s.params.ecc.invf.blen eccNumBytes (eccInvF s.params.ecc.invf) src dst bits s)

/-- The meaning of `ecc.mulc` (R223). -/
def execEccMulc (_fl : MsgFlags) (src : Source) (dst : Place) (bits : Nat) (s : State) :
    Host.Outcome State Fault Refusal :=
  retire (eccCommand s.params.ecc.mulc.blen (2 * eccNumBytes) (eccMulC s.params.ecc.mulc s.params.eccInfinity) src dst bits s)

/-- The meaning of `ecc.muladdc` (R224). -/
def execEccMuladdc (_fl : MsgFlags) (src : Source) (dst : Place) (bits : Nat) (s : State) :
    Host.Outcome State Fault Refusal :=
  retire (eccCommand s.params.ecc.muladdc.blen (2 * eccNumBytes) (eccMulAddC s.params.ecc.muladdc s.params.eccInfinity) src dst bits
    s)

end Sys2Proof.Machine
end

