-- ==== Sys2Proof/Machine/Passthrough.lean ====
section
/-! DEFINITION. The PASSTHROUGH engine (41_passthrough.md R160 to R164). -/

namespace Sys2Proof.Machine

/-- The copy loop of `pt.copy` (R161); `fuel` at least the bytes left to read ends it only when none are left. -/
def ptCopyLoop : Nat → Xfer → State → Res Xfer
  | 0, x, s => .ok x s
  | fuel + 1, x, s =>
    if x.rdLeft = 0 then .ok x s
    else
      (Res.ofRead s (xferRead x (min ptChunk x.rdLeft) s)).andThen fun p s1 =>
        (xferWrite p.2 p.1 s1).andThen fun x2 s2 => ptCopyLoop fuel x2 s2

/-- `pt.copy` (R161). -/
def ptCopy (src : Source) (dst : Place) (s : State) : Res Xfer :=
  ptCopyLoop src.cbSrc (xferOf src dst (some src.cbSrc) false) (xferClear s)

/-- `pt.swap256` (R162); `cbSrc` other than 32 is `NotImplemented` in phase 1 (R163). -/
def ptSwap256 (src : Source) (dst : Place) (s : State) : Res Xfer :=
  if src.cbSrc = 32 then
    (Res.ofRead (xferClear s) (xferRead (xferOf src dst (some 32) true) 32 (xferClear s))).andThen fun p s1 =>
      xferWrite p.2 p.1 s1
  else .raise .notImplemented s

/-- The meaning of `pt.copy` (R161). -/
def execPtCopy (_fl : MsgFlags) (src : Source) (dst : Place) (s : State) : Host.Outcome State Fault Refusal :=
  retire (ptCopy src dst s)

/-- The meaning of `pt.swap256` (R162). -/
def execPtSwap256 (_fl : MsgFlags) (src : Source) (dst : Place) (s : State) : Host.Outcome State Fault Refusal :=
  retire (ptSwap256 src dst s)

end Sys2Proof.Machine
end

