-- ==== Sys2Proof/Machine/Sha2.lean ====
section
/-! DEFINITION. SHA-256 and SHA-384 (49_reference_algorithms.md R310 to R314). -/

namespace Sys2Proof.Machine

/-! ## Constants (R313, R314) -/

/-- `H256` (R313). -/
def sha256Iv : List (BitVec 32) :=
  [0x6A09E667, 0xBB67AE85, 0x3C6EF372, 0xA54FF53A, 0x510E527F, 0x9B05688C, 0x1F83D9AB, 0x5BE0CD19]

/-- `K256` (R313). -/
def sha256K : List (BitVec 32) :=
  [0x428A2F98, 0x71374491, 0xB5C0FBCF, 0xE9B5DBA5, 0x3956C25B, 0x59F111F1, 0x923F82A4, 0xAB1C5ED5,
   0xD807AA98, 0x12835B01, 0x243185BE, 0x550C7DC3, 0x72BE5D74, 0x80DEB1FE, 0x9BDC06A7, 0xC19BF174] ++
  [0xE49B69C1, 0xEFBE4786, 0x0FC19DC6, 0x240CA1CC, 0x2DE92C6F, 0x4A7484AA, 0x5CB0A9DC, 0x76F988DA,
   0x983E5152, 0xA831C66D, 0xB00327C8, 0xBF597FC7, 0xC6E00BF3, 0xD5A79147, 0x06CA6351, 0x14292967] ++
  [0x27B70A85, 0x2E1B2138, 0x4D2C6DFC, 0x53380D13, 0x650A7354, 0x766A0ABB, 0x81C2C92E, 0x92722C85,
   0xA2BFE8A1, 0xA81A664B, 0xC24B8B70, 0xC76C51A3, 0xD192E819, 0xD6990624, 0xF40E3585, 0x106AA070] ++
  [0x19A4C116, 0x1E376C08, 0x2748774C, 0x34B0BCB5, 0x391C0CB3, 0x4ED8AA4A, 0x5B9CCA4F, 0x682E6FF3,
   0x748F82EE, 0x78A5636F, 0x84C87814, 0x8CC70208, 0x90BEFFFA, 0xA4506CEB, 0xBEF9A3F7, 0xC67178F2]

/-- `H384` (R314). -/
def sha384Iv : List (BitVec 64) :=
  [0xCBBB9D5DC1059ED8, 0x629A292A367CD507, 0x9159015A3070DD17, 0x152FECD8F70E5939,
   0x67332667FFC00B31, 0x8EB44A8768581511, 0xDB0C2E0D64F98FA7, 0x47B5481DBEFA4FA4]

/-- `K512` (R314). -/
def sha512K : List (BitVec 64) :=
  [0x428A2F98D728AE22, 0x7137449123EF65CD, 0xB5C0FBCFEC4D3B2F, 0xE9B5DBA58189DBBC,
   0x3956C25BF348B538, 0x59F111F1B605D019, 0x923F82A4AF194F9B, 0xAB1C5ED5DA6D8118,
   0xD807AA98A3030242, 0x12835B0145706FBE, 0x243185BE4EE4B28C, 0x550C7DC3D5FFB4E2,
   0x72BE5D74F27B896F, 0x80DEB1FE3B1696B1, 0x9BDC06A725C71235, 0xC19BF174CF692694] ++
  [0xE49B69C19EF14AD2, 0xEFBE4786384F25E3, 0x0FC19DC68B8CD5B5, 0x240CA1CC77AC9C65,
   0x2DE92C6F592B0275, 0x4A7484AA6EA6E483, 0x5CB0A9DCBD41FBD4, 0x76F988DA831153B5,
   0x983E5152EE66DFAB, 0xA831C66D2DB43210, 0xB00327C898FB213F, 0xBF597FC7BEEF0EE4,
   0xC6E00BF33DA88FC2, 0xD5A79147930AA725, 0x06CA6351E003826F, 0x142929670A0E6E70] ++
  [0x27B70A8546D22FFC, 0x2E1B21385C26C926, 0x4D2C6DFC5AC42AED, 0x53380D139D95B3DF,
   0x650A73548BAF63DE, 0x766A0ABB3C77B2A8, 0x81C2C92E47EDAEE6, 0x92722C851482353B,
   0xA2BFE8A14CF10364, 0xA81A664BBC423001, 0xC24B8B70D0F89791, 0xC76C51A30654BE30,
   0xD192E819D6EF5218, 0xD69906245565A910, 0xF40E35855771202A, 0x106AA07032BBD1B8] ++
  [0x19A4C116B8D2D0C8, 0x1E376C085141AB53, 0x2748774CDF8EEB99, 0x34B0BCB5E19B48A8,
   0x391C0CB3C5C95A63, 0x4ED8AA4AE3418ACB, 0x5B9CCA4F7763E373, 0x682E6FF3D6B2B8A3,
   0x748F82EE5DEFB2FC, 0x78A5636F43172F60, 0x84C87814A1F0AB72, 0x8CC702081A6439EC,
   0x90BEFFFA23631E28, 0xA4506CEBDE82BDE9, 0xBEF9A3F7B2C67915, 0xC67178F2E372532B] ++
  [0xCA273ECEEA26619C, 0xD186B8C721C0C207, 0xEADA7DD6CDE0EB1E, 0xF57D4F7FEE6ED178,
   0x06F067AA72176FBA, 0x0A637DC5A2C898A6, 0x113F9804BEF90DAE, 0x1B710B35131C471B,
   0x28DB77F523047D84, 0x32CAAB7B40C72493, 0x3C9EBE0A15C9BEBC, 0x431D67C49C100D4C,
   0x4CC5D4BECB3E42B6, 0x597F299CFC657E2A, 0x5FCB6FAB3AD6FAEC, 0x6C44198C4A475817]

/-! ## The round functions (R311, R312) -/

/-- `Ch(x,y,z)` (R311). -/
def shaCh {w : Nat} (x y z : BitVec w) : BitVec w := (x &&& y) ^^^ (~~~x &&& z)

/-- `Maj(x,y,z)` (R311). -/
def shaMaj {w : Nat} (x y z : BitVec w) : BitVec w := (x &&& y) ^^^ (x &&& z) ^^^ (y &&& z)

/-- The exclusive or of three right rotations: the shape of `S0` and `S1`. -/
def rotr3 {w : Nat} (a b c : Nat) (x : BitVec w) : BitVec w := x.rotateRight a ^^^ x.rotateRight b ^^^ x.rotateRight c

/-- The exclusive or of two right rotations and a right shift: the shape of `s0` and `s1`. -/
def rotr2Shr {w : Nat} (a b c : Nat) (x : BitVec w) : BitVec w := x.rotateRight a ^^^ x.rotateRight b ^^^ (x >>> c)

/-- The rotation counts that tell SHA-256 and SHA-384 apart (R311, R312). -/
structure ShaRots where
  bigS0 : Nat × Nat × Nat
  bigS1 : Nat × Nat × Nat
  smallS0 : Nat × Nat × Nat
  smallS1 : Nat × Nat × Nat
  deriving DecidableEq, Repr

/-- SHA-256 (R311). -/
def sha256Rots : ShaRots where
  bigS0 := (2, 13, 22)
  bigS1 := (6, 11, 25)
  smallS0 := (7, 18, 3)
  smallS1 := (17, 19, 10)

/-- SHA-384 (R312). -/
def sha384Rots : ShaRots where
  bigS0 := (28, 34, 39)
  bigS1 := (14, 18, 41)
  smallS0 := (1, 8, 7)
  smallS1 := (19, 61, 6)

/-- The eight working variables `(a, …, h)`. -/
structure ShaVars (w : Nat) where
  a : BitVec w
  b : BitVec w
  c : BitVec w
  d : BitVec w
  e : BitVec w
  f : BitVec w
  g : BitVec w
  h : BitVec w
  deriving DecidableEq, Repr

/-- The eight words of a hash value as working variables. -/
def ShaVars.ofList {w : Nat} (l : List (BitVec w)) : ShaVars w where
  a := l.getD 0 0
  b := l.getD 1 0
  c := l.getD 2 0
  d := l.getD 3 0
  e := l.getD 4 0
  f := l.getD 5 0
  g := l.getD 6 0
  h := l.getD 7 0

/-- The working variables as eight words. -/
def ShaVars.toList {w : Nat} (v : ShaVars w) : List (BitVec w) := [v.a, v.b, v.c, v.d, v.e, v.f, v.g, v.h]

/-- One round with `K[t] + W[t]` (R311). -/
def shaRound {w : Nat} (r : ShaRots) (v : ShaVars w) (k wt : BitVec w) : ShaVars w :=
  let t1 := v.h + rotr3 r.bigS1.1 r.bigS1.2.1 r.bigS1.2.2 v.e + shaCh v.e v.f v.g + k + wt
  let t2 := rotr3 r.bigS0.1 r.bigS0.2.1 r.bigS0.2.2 v.a + shaMaj v.a v.b v.c
  { a := t1 + t2, b := v.a, c := v.b, d := v.c, e := v.d + t1, f := v.e, g := v.f, h := v.g }

/-- The message schedule, newest word first: `n` more words by the recurrence of R311. -/
def shaExtend {w : Nat} (r : ShaRots) : Nat → List (BitVec w) → List (BitVec w)
  | 0, ws => ws
  | n + 1, ws =>
    shaExtend r n
      ((rotr2Shr r.smallS1.1 r.smallS1.2.1 r.smallS1.2.2 (ws.getD 1 0) + ws.getD 6 0 +
          rotr2Shr r.smallS0.1 r.smallS0.2.1 r.smallS0.2.2 (ws.getD 14 0) + ws.getD 15 0) :: ws)

/-- All rounds, over the constants and the schedule. -/
def shaRounds {w : Nat} (r : ShaRots) : List (BitVec w) → List (BitVec w) → ShaVars w → ShaVars w
  | k :: ks, wt :: ws, v => shaRounds r ks ws (shaRound r v k wt)
  | _, _, v => v

/-- One block: the first sixteen words, the schedule, the rounds, the addition word by word (R311). -/
def shaBlock {w : Nat} (r : ShaRots) (ks : List (BitVec w)) (hash : List (BitVec w)) (block : Bytes) : List (BitVec w) :=
  let w0 := (pieces (w / 8) 16 block).map fun b => BitVec.ofNat w (be b)
  let ws := (shaExtend r (ks.length - 16) w0.reverse).reverse
  List.zipWith (· + ·) hash (shaRounds r ks ws (ShaVars.ofList hash)).toList

/-- The padding (R311, R312): `0x80`, the least number of zero bytes, and the bit length in `lenBytes` bytes, to a
multiple of `blockBytes`. -/
def shaPad (blockBytes lenBytes : Nat) (m : Bytes) : Bytes :=
  m ++ [0x80] ++ List.replicate ((blockBytes - (m.length + 1 + lenBytes) % blockBytes) % blockBytes) 0 ++
    toBe (8 * m.length) lenBytes

/-- The blocks hashed in order. -/
def shaHash {w : Nat} (r : ShaRots) (ks iv : List (BitVec w)) (blockBytes : Nat) (padded : Bytes) : List (BitVec w) :=
  (pieces blockBytes (padded.length / blockBytes) padded).foldl (shaBlock r ks) iv

/-- `SHA256(M)` (R311): 32 bytes, in the standard order. -/
def sha256Digest (m : Bytes) : Bytes :=
  (shaHash sha256Rots sha256K sha256Iv 64 (shaPad 64 8 m)).flatMap fun x => toBe x.toNat 4

/-- `SHA384(M)` (R312): 48 bytes, the last two hash words dropped. -/
def sha384Digest (m : Bytes) : Bytes :=
  ((shaHash sha384Rots sha512K sha384Iv 128 (shaPad 128 16 m)).take 6).flatMap fun x => toBe x.toNat 8

end Sys2Proof.Machine
end

