-- ==== Sys2Proof/Machine/Sha.lean ====
section
/-! DEFINITION. The SHA engine (42_sha.md R170 to R180). -/

namespace Sys2Proof.Machine

/-- The digest function of a type (R170). -/
def shaDigest : ShaType → Bytes → Bytes
  | .sha256 => sha256Digest
  | .sha384 => sha384Digest

/-- The digest length `L` of a type (R170). -/
def shaLen : ShaType → Nat
  | .sha256 => 32
  | .sha384 => 48

/-- Phase 2 (R171 to R173, R179): the message so far; a session starts iff none exists, whatever `init` says; a session of
the other type is an error (`sessionMismatch`, log 25). -/
def shaLookup (t : ShaType) (s : State) : Res Bytes :=
  match s.sha with
  | none => .ok [] s
  | some sess => if sess.type = t then .ok sess.msg s else sessionMismatch s

/-- The update loop (R173): the message with the source bytes appended. -/
def shaUpdate : Nat → Xfer → Bytes → State → Except ErrKind (Bytes × Xfer)
  | 0, x, msg, _ => .ok (msg, x)
  | fuel + 1, x, msg, s =>
    if x.rdLeft = 0 then .ok (msg, x)
    else
      match xferRead x (min shaChunk x.rdLeft) s with
      | .ok p => shaUpdate fuel p.2 (msg ++ p.1) s
      | .error k => .error k

/-- Phase 6 (R173, R176): on `eom` the digest is written reversed and the session is emptied; else the session is kept. -/
def shaClose (t : ShaType) (eom : Bool) (msg : Bytes) (x : Xfer) (s : State) : Res Xfer :=
  if eom then (xferWrite x (shaDigest t msg) s).andThen fun x2 s2 => .ok x2 (s2.setSha none)
  else .ok x (s.setSha (some { type := t, msg := msg }))

/-- The SHA procedure (R173); any error empties the session (R178). What a session of the other type leaves in `cbWrittenLast`
(R173 and R350 against R180 (e)) is a parameter: DESIGN CHOICE, log 25. -/
def shaCommand (t : ShaType) (fl : MsgFlags) (src : Source) (s : State) : Res Xfer :=
  Res.onRaise (fun s => s.setSha none)
    ((shaLookup t s).andThen fun msg0 s0 =>
      (Res.ofRead (xferClear s0)
          (shaUpdate src.cbSrc (xferOf src (shaDest src) (some (shaLen t)) true) msg0 (xferClear s0))).andThen
        fun p s1 => shaClose t fl.eom p.1 p.2 s1)

/-- The meaning of `sha.256` (R174). -/
def execSha256 (fl : MsgFlags) (src : Source) (_shaBits : Nat) (s : State) : Host.Outcome State Fault Refusal :=
  retire (shaCommand .sha256 fl src s)

/-- The meaning of `sha.384` (R175). -/
def execSha384 (fl : MsgFlags) (src : Source) (_shaBits : Nat) (s : State) : Host.Outcome State Fault Refusal :=
  retire (shaCommand .sha384 fl src s)

end Sys2Proof.Machine
end

