-- ==== Sys2Proof/Machine/Inflate.lean ====
section
/-! DEFINITION. `INFLATE(z)`: the zlib stream decoder as a function of the input prefix (49_reference_algorithms.md R325 to
R332). The order of "needs more input" and "error" follows R331 and, where it is silent, the zlib library it names (logs 14,
15). -/

namespace Sys2Proof.Machine

/-- The bits still to read, first bit first (R325). -/
abbrev Bits := List Bool

/-- The eight bits of a byte, least significant first (R325). -/
def byteBits (b : Byte) : Bits := (List.range 8).map b.getLsbD

/-- The bit stream of a byte string (R325). -/
def bitStream (z : Bytes) : Bits := z.flatMap byteBits

/-- The state an inflater stops in (46_zlib.md R244). -/
inductive InfStatus where
  | needMore
  | done
  | error
  deriving DecidableEq, Repr

/-- What reading an item gives (R331): the item and the bits after it, too few bits, or an error. -/
inductive Take (α : Type) where
  | got (a : α) (rest : Bits)
  | short
  | bad
  deriving DecidableEq, Repr

/-- Goes on with `f` after an item has been read. -/
def Take.andThen {α β : Type} (t : Take α) (f : α → Bits → Take β) : Take β :=
  match t with
  | .got a rest => f a rest
  | .short => .short
  | .bad => .bad

/-- The integer of `n` bits, first bit least significant. -/
def bitsToNat : Bits → Nat
  | [] => 0
  | b :: t => b.toNat + 2 * bitsToNat t

/-- A field of `n` bits read as an integer (R325); `n` bits must be there (R331). -/
def takeInt (n : Nat) (bs : Bits) : Take Nat :=
  if bs.length < n then .short else .got (bitsToNat (bs.take n)) (bs.drop n)

/-- The bits from the next byte boundary on; the whole stream is whole bytes (R327, R332). -/
def alignByte (bs : Bits) : Bits := bs.drop (bs.length % 8)

/-! ## Canonical Huffman codes (R330) -/

/-- One code: its length in bits, its value (first bit the most significant), its symbol. -/
structure Code where
  len : Nat
  code : Nat
  sym : Nat
  deriving DecidableEq, Repr

/-- `count[b]` for `b ≥ 1` (R330). -/
def lenCount (lens : List Nat) (b : Nat) : Nat := lens.countP fun l => l == b && l != 0

/-- The first code of length `b`: `code = (code + count[b-1]) << 1` (R330). -/
def firstCode (lens : List Nat) : Nat → Nat
  | 0 => 0
  | b + 1 => (firstCode lens b + lenCount lens b) * 2

/-- The codes of the symbols `sym`, `sym + 1`, …, in increasing order; `next b` is the next unused code of length `b`, held
as a list from `b = 0` on (R330). -/
def assignCodes : List Nat → Nat → List Nat → List Code
  | [], _, _ => []
  | l :: ls, sym, next =>
    if l = 0 then assignCodes ls (sym + 1) next
    else
      { len := l, code := next.getD l 0, sym := sym } ::
        assignCodes ls (sym + 1) (next.set l (next.getD l 0 + 1))

/-- The canonical code of a list of code lengths, 0 to 15 each (R330). -/
def canonicalCode (lens : List Nat) : List Code := assignCodes lens 0 ((List.range 16).map (firstCode lens))

/-- `2^15` times the sum of `2^(-len)` over the used symbols (R330). -/
def kraftSum : List Nat → Nat
  | [] => 0
  | l :: ls => (if l = 0 then 0 else 2 ^ (15 - l)) + kraftSum ls

/-- The set of lengths is complete (R330). -/
def lensComplete (lens : List Nat) : Bool := kraftSum lens == 2 ^ 15

/-- The set of lengths is exactly one code of length 1 (R328). -/
def lensSingle (lens : List Nat) : Bool := (lens.filter (· != 0)) == [1]

/-- Decodes one symbol: bits are read until they equal a code; bits that no code begins with are an error (R330, R329;
log 15). `n` bits of value `acc` have been read; `fuel` counts down from 15. -/
def takeSym (codes : List Code) : Nat → Nat → Nat → Bits → Take Nat
  | 0, _, _, _ => .bad
  | _ + 1, _, _, [] => .short
  | fuel + 1, n, acc, b :: bs =>
    let acc' := 2 * acc + b.toNat
    match codes.find? fun c => c.len == n + 1 && c.code == acc' with
    | some c => .got c.sym bs
    | none =>
      if codes.any fun c => decide (n + 1 < c.len) && c.code / 2 ^ (c.len - (n + 1)) == acc' then
        takeSym codes fuel (n + 1) acc' bs
      else .bad

/-- One symbol of a code, from its first bit. -/
def takeSymbol (codes : List Code) (bs : Bits) : Take Nat := takeSym codes 15 0 0 bs

/-! ## Code lengths (R327, R328) -/

/-- The fixed literal/length code (R327). -/
def fixedLitLens : List Nat :=
  List.replicate 144 8 ++ List.replicate 112 9 ++ List.replicate 24 7 ++ List.replicate 8 8

/-- The fixed distance code (R327). -/
def fixedDistLens : List Nat := List.replicate 32 5

/-- The order in which the code-length code's lengths are read (R328). -/
def codeLenOrder : List Nat := [16, 17, 18, 0, 8, 7, 9, 6, 10, 5, 11, 4, 12, 3, 13, 2, 14, 1, 15]

/-- The three-bit lengths of the code-length alphabet, put in their places; unread ones stay 0 (R328). -/
def takeCodeLenLens : List Nat → List Nat → Bits → Take (List Nat)
  | [], lens, bs => .got lens bs
  | i :: is, lens, bs => (takeInt 3 bs).andThen fun v bs1 => takeCodeLenLens is (lens.set i v) bs1

/-- What a code-length symbol appends, with its extra bits (R328); the lengths so far stand newest first. -/
def takeRepeat (sym : Nat) (lens : List Nat) (bs : Bits) : Take (List Nat) :=
  if sym < 16 then .got (sym :: lens) bs
  else if sym = 16 then
    (takeInt 2 bs).andThen fun v bs1 =>
      match lens with
      | [] => .bad
      | l :: _ => .got (List.replicate (3 + v) l ++ lens) bs1
  else if sym = 17 then (takeInt 3 bs).andThen fun v bs1 => .got (List.replicate (3 + v) 0 ++ lens) bs1
  else (takeInt 7 bs).andThen fun v bs1 => .got (List.replicate (11 + v) 0 ++ lens) bs1

/-- The `total` literal/length and distance code lengths as one sequence; a repeat past the total is an error (R328). The
lengths so far stand newest first; every turn adds at least one. -/
def takeLens (codes : List Code) (total : Nat) : Nat → List Nat → Bits → Take (List Nat)
  | 0, _, _ => .bad
  | fuel + 1, lens, bs =>
    if lens.length = total then .got lens.reverse bs
    else
      (takeSymbol codes bs).andThen fun sym bs1 =>
        (takeRepeat sym lens bs1).andThen fun lens1 bs2 =>
          if total < lens1.length then .bad else takeLens codes total fuel lens1 bs2

/-- The conditions on the two sets of lengths (R328): symbol 256 is used, each set is complete or one code of length 1, the
distance set may be empty. -/
def lensOk (lit dist : List Nat) : Bool :=
  lit.getD 256 0 != 0 && (lensComplete lit || lensSingle lit) &&
    (lensComplete dist || lensSingle dist || dist.all (· == 0))

/-- The dynamic code description (R328): the lengths of the literal/length and of the distance code. -/
def takeDynamic (bs : Bits) : Take (List Nat × List Nat) :=
  (takeInt 5 bs).andThen fun hlit bs1 =>
    (takeInt 5 bs1).andThen fun hdist bs2 =>
      (takeInt 4 bs2).andThen fun hclen bs3 =>
        if 286 < hlit + 257 ∨ 30 < hdist + 1 then .bad
        else
          (takeCodeLenLens (codeLenOrder.take (hclen + 4)) (List.replicate 19 0) bs3).andThen fun cl bs4 =>
            if lensComplete cl then
              (takeLens (canonicalCode cl) (hlit + 257 + (hdist + 1)) (hlit + 257 + (hdist + 1) + 1) [] bs4).andThen
                fun lens bs5 =>
                  if lensOk (lens.take (hlit + 257)) (lens.drop (hlit + 257)) then
                    .got (lens.take (hlit + 257), lens.drop (hlit + 257)) bs5
                  else .bad
            else .bad

/-! ## Compressed data (R329) -/

/-- `LBASE` (R329). -/
def lengthBase : List Nat :=
  [3, 4, 5, 6, 7, 8, 9, 10, 11, 13, 15, 17, 19, 23, 27, 31, 35, 43, 51, 59, 67, 83, 99, 115, 131, 163, 195, 227, 258]

/-- `LEXT` (R329). -/
def lengthExtra : List Nat :=
  [0, 0, 0, 0, 0, 0, 0, 0, 1, 1, 1, 1, 2, 2, 2, 2, 3, 3, 3, 3, 4, 4, 4, 4, 5, 5, 5, 5, 0]

/-- `DBASE` (R329). -/
def distBase : List Nat :=
  [1, 2, 3, 4, 5, 7, 9, 13, 17, 25, 33, 49, 65, 97, 129, 193, 257, 385, 513, 769, 1025, 1537, 2049, 3073, 4097, 6145,
    8193, 12289, 16385, 24577]

/-- `DEXT` (R329). -/
def distExtra : List Nat :=
  [0, 0, 0, 0, 1, 1, 2, 2, 3, 3, 4, 4, 5, 5, 6, 6, 7, 7, 8, 8, 9, 9, 10, 10, 11, 11, 12, 12, 13, 13]

/-- One item of compressed data: a literal byte, the end of the block, or a length and a distance. -/
inductive Item where
  | literal (b : Byte)
  | endOfBlock
  | copy (length distance : Nat)
  deriving DecidableEq, Repr

/-- The distance of a pair, after its length (R329). -/
def takeDistance (dist : List Code) (length : Nat) (bs : Bits) : Take Item :=
  (takeSymbol dist bs).andThen fun d bs1 =>
    if 30 ≤ d then .bad
    else (takeInt (distExtra.getD d 0) bs1).andThen fun e bs2 => .got (.copy length (distBase.getD d 0 + e)) bs2

/-- One whole item, all its bits at hand (R329, R331). -/
def takeItem (lit dist : List Code) (bs : Bits) : Take Item :=
  (takeSymbol lit bs).andThen fun s bs1 =>
    if s < 256 then .got (.literal (BitVec.ofNat 8 s)) bs1
    else if s = 256 then .got .endOfBlock bs1
    else if 286 ≤ s then .bad
    else
      (takeInt (lengthExtra.getD (s - 257) 0) bs1).andThen fun e bs2 =>
        takeDistance dist (lengthBase.getD (s - 257) 0 + e) bs2

/-- `n` bytes, each the one `distance` positions back; the output stands newest first (R329). -/
def copyBack (distance : Nat) : Nat → Bytes → Bytes
  | 0, out => out
  | n + 1, out => copyBack distance n (out.getD (distance - 1) 0 :: out)

/-- How a part of the stream ends: it goes on with the bits left, or the inflater stops; the output so far stands newest
first. -/
inductive Run where
  | cont (rest : Bits) (out : Bytes)
  | stop (st : InfStatus) (out : Bytes)
  deriving DecidableEq, Repr

/-- The compressed data of a block (R329); `fuel` more than the bits left, each item takes at least one. -/
def runCodes (lit dist : List Code) : Nat → Bits → Bytes → Run
  | 0, _, out => .stop .error out
  | fuel + 1, bs, out =>
    match takeItem lit dist bs with
    | .short => .stop .needMore out
    | .bad => .stop .error out
    | .got (.literal b) bs1 => runCodes lit dist fuel bs1 (b :: out)
    | .got .endOfBlock bs1 => .cont bs1 out
    | .got (.copy length distance) bs1 =>
      if min out.length 32768 < distance then .stop .error out
      else runCodes lit dist fuel bs1 (copyBack distance length out)

/-- The bytes of a stored block, one by one as they arrive (R327, R331). -/
def runStored : Nat → Bits → Bytes → Run
  | 0, bs, out => .cont bs out
  | n + 1, bs, out =>
    match takeInt 8 bs with
    | .got v bs1 => runStored n bs1 (BitVec.ofNat 8 v :: out)
    | .short => .stop .needMore out
    | .bad => .stop .error out

/-- A stored block after its block header (R327). -/
def runStoredBlock (bs : Bits) (out : Bytes) : Run :=
  match (takeInt 16 (alignByte bs)).andThen fun len bs1 => (takeInt 16 bs1).andThen fun nlen bs2 => .got (len, nlen) bs2 with
  | .short => .stop .needMore out
  | .bad => .stop .error out
  | .got (len, nlen) bs2 => if len + nlen = 0xFFFF then runStored len bs2 out else .stop .error out

/-- The data of one block of a type (R327). -/
def runBlock (btype : Nat) (bs : Bits) (out : Bytes) : Run :=
  match btype with
  | 0 => runStoredBlock bs out
  | 1 => runCodes (canonicalCode fixedLitLens) (canonicalCode fixedDistLens) (bs.length + 1) bs out
  | 2 =>
    match takeDynamic bs with
    | .short => .stop .needMore out
    | .bad => .stop .error out
    | .got (lit, dist) bs1 => runCodes (canonicalCode lit) (canonicalCode dist) (bs1.length + 1) bs1 out
  | _ => .stop .error out

/-- The block header: `BFINAL` and `BTYPE`, three bits (R327). -/
def takeBlockHeader (bs : Bits) : Take (Nat × Nat) :=
  (takeInt 1 bs).andThen fun fin bs1 => (takeInt 2 bs1).andThen fun btype bs2 => .got (fin, btype) bs2

/-- The blocks up to the final one (R327); `fuel` more than the bits left, each block takes at least three. -/
def runBlocks : Nat → Bits → Bytes → Run
  | 0, _, out => .stop .error out
  | fuel + 1, bs, out =>
    match takeBlockHeader bs with
    | .short => .stop .needMore out
    | .bad => .stop .error out
    | .got (fin, btype) bs1 =>
      match runBlock btype bs1 out with
      | .stop st out1 => .stop st out1
      | .cont bs2 out1 => if fin = 1 then .cont bs2 out1 else runBlocks fuel bs2 out1

/-! ## The zlib container (R326, R332) -/

/-- `ADLER32` (R332): the pair `(a, b)` over the bytes in order. -/
def adlerStep (p : Nat × Nat) (x : Byte) : Nat × Nat := ((p.1 + x.toNat) % 65521, (p.2 + (p.1 + x.toNat) % 65521) % 65521)

/-- `ADLER32(out)` (R332). -/
def adler32 (out : Bytes) : Nat := (out.foldl adlerStep (1, 0)).2 * 65536 + (out.foldl adlerStep (1, 0)).1

/-- The zlib header is valid (R326). -/
def headerOk (cmf flg : Nat) : Bool :=
  field cmf 0 4 == 8 && decide (field cmf 4 4 ≤ 7) && (cmf * 256 + flg) % 31 == 0

/-- The header (R326): a preset dictionary's identifier is read, then refused. -/
def takeHeader (bs : Bits) : Take Unit :=
  (takeInt 8 bs).andThen fun cmf bs1 =>
    (takeInt 8 bs1).andThen fun flg bs2 =>
      if headerOk cmf flg then
        if bitAt flg 5 then (takeInt 32 bs2).andThen fun _ _ => .bad else .got () bs2
      else .bad

/-- The four bytes of the trailer, the first the most significant (R332). -/
def takeTrailer (bs : Bits) : Take Nat :=
  (takeInt 8 bs).andThen fun b3 bs1 =>
    (takeInt 8 bs1).andThen fun b2 bs2 =>
      (takeInt 8 bs2).andThen fun b1 bs3 =>
        (takeInt 8 bs3).andThen fun b0 bs4 => .got (((b3 * 256 + b2) * 256 + b1) * 256 + b0) bs4

/-- What `INFLATE(z)` returns (46_zlib.md R244): the output in order, and the state. -/
structure Inflated where
  out : Bytes
  status : InfStatus
  deriving DecidableEq, Repr

/-- The trailer after the final block, from the next byte boundary (R332). -/
def checkTrailer (bs : Bits) (out : Bytes) : Inflated :=
  match takeTrailer (alignByte bs) with
  | .short => { out := out, status := .needMore }
  | .bad => { out := out, status := .error }
  | .got v _ => if v = adler32 out then { out := out, status := .done } else { out := out, status := .error }

/-- `INFLATE(z)` (R331). -/
def inflate (z : Bytes) : Inflated :=
  match takeHeader (bitStream z) with
  | .short => { out := [], status := .needMore }
  | .bad => { out := [], status := .error }
  | .got _ bs =>
    match runBlocks (bs.length + 1) bs [] with
    | .stop st out => { out := out.reverse, status := st }
    | .cont bs1 out => checkTrailer bs1 out.reverse

end Sys2Proof.Machine
end

