-- ==== Sys2Proof/Machine/Zlib.lean ====
section
/-! DEFINITION. The ZLIB decompression engine (46_zlib.md R240 to R254). -/

namespace Sys2Proof.Machine

/-- A fresh inflate state (R241). -/
def zlibFresh : ZlibSession where
  zin := []
  zout := 0

/-- The session the command works on (R241): a fresh one on `init` or when there is none. -/
def zlibStart (init : Bool) (s : State) : ZlibSession := if init then zlibFresh else s.zlib.getD zlibFresh

/-- The output buffering of R245: each byte goes to the buffer, a full buffer is flushed at once. -/
def zlibEmit : Bytes → Bytes → Xfer → State → Res (Bytes × Xfer)
  | [], obuf, x, s => .ok (obuf, x) s
  | b :: t, obuf, x, s =>
    if (obuf ++ [b]).length = zlibOutBuf then
      (xferWrite x (obuf ++ [b]) s).andThen fun x2 s2 => zlibEmit t [] x2 s2
    else zlibEmit t (obuf ++ [b]) x s

/-- The output that one more piece of input makes decodable (R243, R244). -/
def zlibNew (sess : ZlibSession) (piece : Bytes) : Bytes := (inflate (sess.zin ++ piece)).out.drop sess.zout

/-- The session after one more piece of input (R243). -/
def zlibFed (sess : ZlibSession) (piece : Bytes) : ZlibSession where
  zin := sess.zin ++ piece
  zout := (inflate (sess.zin ++ piece)).out.length

/-- The feeding loop of R243; it ends at the end of the input or of the stream (R250). -/
def zlibLoop : Nat → ZlibSession → Bytes → Xfer → State → Res (ZlibSession × Bytes × Xfer)
  | 0, sess, obuf, x, s => .ok (sess, obuf, x) s
  | fuel + 1, sess, obuf, x, s =>
    if x.rdLeft = 0 ∨ (inflate sess.zin).status = .done then .ok (sess, obuf, x) s
    else
      (Res.ofRead s (xferRead x (min zlibInChunk x.rdLeft) s)).andThen fun p s1 =>
        (zlibEmit (zlibNew sess p.1) obuf p.2 s1).andThen fun q s2 =>
          if (inflate (sess.zin ++ p.1)).status = .error then .raise .engineError s2
          else zlibLoop fuel (zlibFed sess p.1) q.1 q.2 s2

/-- The ZLIB procedure (R243): after the loop the buffer is flushed (R246), and `eom` empties the session (R247); any error
empties the session (R249). -/
def zlibCommand (fl : MsgFlags) (src : Source) (dst : Place) (s : State) : Res Xfer :=
  Res.onRaise (fun s => s.setZlib none)
    ((zlibLoop src.cbSrc (zlibStart fl.init s) [] (xferOf src dst none false) (xferClear s)).andThen fun q s1 =>
      (xferWriteSome q.2.2 q.2.1 s1).andThen fun x2 s2 =>
        .ok x2 (s2.setZlib (if fl.eom then none else some q.1)))

/-- The meaning of `zlib.inflate` (R243). -/
def execZlibInflate (fl : MsgFlags) (src : Source) (dst : Place) (s : State) : Host.Outcome State Fault Refusal :=
  retire (zlibCommand fl src dst s)

end Sys2Proof.Machine
end

