-- ==== Sys2Proof/Machine/Dispatch.lean ====
section
/-! DEFINITION. The dispatch: one arm per command (40_dispatch.md R142). -/

namespace Sys2Proof.Machine

def exec (i : Instr) (s : State) : Host.Outcome State Fault Refusal :=
  match i with
  | .ptCopy fl src dst => Sys2Proof.Machine.execPtCopy fl src dst s
  | .ptSwap256 fl src dst => Sys2Proof.Machine.execPtSwap256 fl src dst s
  | .sha256 fl src shaBits => Sys2Proof.Machine.execSha256 fl src shaBits s
  | .sha384 fl src shaBits => Sys2Proof.Machine.execSha384 fl src shaBits s
  | .aes128EcbDec fl src dst key => Sys2Proof.Machine.execAes128EcbDec fl src dst key s
  | .aes128EcbEnc fl src dst key => Sys2Proof.Machine.execAes128EcbEnc fl src dst key s
  | .aes128CbcDec fl src dst key => Sys2Proof.Machine.execAes128CbcDec fl src dst key s
  | .aes128CbcEnc fl src dst key => Sys2Proof.Machine.execAes128CbcEnc fl src dst key s
  | .aes256EcbDec fl src dst key => Sys2Proof.Machine.execAes256EcbDec fl src dst key s
  | .aes256EcbEnc fl src dst key => Sys2Proof.Machine.execAes256EcbEnc fl src dst key s
  | .aes256CbcDec fl src dst key => Sys2Proof.Machine.execAes256CbcDec fl src dst key s
  | .aes256CbcEnc fl src dst key => Sys2Proof.Machine.execAes256CbcEnc fl src dst key s
  | .rsaModexp2048 fl src dst key => Sys2Proof.Machine.execRsaModexp2048 fl src dst key s
  | .rsaModexp4096 fl src dst key => Sys2Proof.Machine.execRsaModexp4096 fl src dst key s
  | .eccMulf fl src dst bits => Sys2Proof.Machine.execEccMulf fl src dst bits s
  | .eccAddf fl src dst bits => Sys2Proof.Machine.execEccAddf fl src dst bits s
  | .eccInvf fl src dst bits => Sys2Proof.Machine.execEccInvf fl src dst bits s
  | .eccMulc fl src dst bits => Sys2Proof.Machine.execEccMulc fl src dst bits s
  | .eccMuladdc fl src dst bits => Sys2Proof.Machine.execEccMuladdc fl src dst bits s
  | .zlibInflate fl src dst => Sys2Proof.Machine.execZlibInflate fl src dst s

end Sys2Proof.Machine
end

