-- ==== Sys2Proof/Machine/Mmio.lean ====
section
/-! DEFINITION. The host's side: the MMIO register file (48_mmio.md R275 to R303), the triggers that start a drain (R290), and
the descriptor fetch of the queue controller (47_queue_controller.md R257). -/

namespace Sys2Proof.Machine

/-! ## Address decode (R276, R287) -/

/-- What a primary-region offset names (R276). -/
inductive PrimaryTarget where
  | global
  | reg (q : QId) (r : QReg)
  | undefined
  deriving DecidableEq, Repr

/-- The register at an offset of the queue block, if any (R276). -/
def regAt (m : RegMap) (r : Nat) : Option QReg :=
  if r = m.control then some .control
  else if r = m.tail then some .tail
  else if r = m.head then some .head
  else if r = m.ien then some .ien
  else if r = m.ists then some .ists
  else if r = m.status then some .status
  else none

/-- `decode(off)` (R276). -/
def primaryTarget (m : RegMap) (off : Nat) : PrimaryTarget :=
  if off < m.qBase then .global
  else
    let block := (off - m.qBase) / m.qStride
    match regAt m ((off - m.qBase) % m.qStride) with
    | none => .undefined
    | some r => if block = 0 then .reg .q0 r else if block = 1 then .reg .q1 r else .undefined

/-- The offset of a queue register: `Q_BASE + q * Q_STRIDE + REG_<reg>` (30_encoding.md R120). -/
def primaryOffset (m : RegMap) (q : QId) (r : QReg) : Nat :=
  m.qBase + (match q with | .q0 => 0 | .q1 => 1) * m.qStride + m.offset r

/-! ## Answers -/

/-- A rejected read (R277, R303): no effect but the answer, a free value of the access's width (log 7). -/
def rejectRead (width : Nat) (s : State) : State :=
  respond (.rejected (Config.rejectedRead s.freeCount width % 2 ^ width)) s.bumpFree

/-- A drain of queue `q` is begun for an access that will answer `reply`, if the queue is enabled (47_queue_controller.md
R255, R256); a disabled queue does nothing and the access ends at once. -/
def trigger (q : QId) (reply : Reply) (s : State) : State :=
  if (s.queue q).enabled then
    ((s.setCur q).setQueue q ((s.queue q).started s.params.bits)).setPhase (.draining reply)
  else respond (reply.data (s.queue q)) s

/-! ## The four MMIO events (R275) -/

/-- `PrimaryRead` (R277, R278, R280, R287). -/
def primaryRead (off width : Nat) (s : State) : State :=
  if width = mmioWidth then
    match primaryTarget s.params.regs off with
    | .reg q r => trigger q (.read r) s
    | .global => respond (.word 0) s
    | .undefined => respond (.word 0) s
  else rejectRead width s

/-- `PrimaryWrite` (R277, R278, R282 to R289): the store comes before the trigger test. -/
def primaryWrite (off width value : Nat) (s : State) : State :=
  if width = mmioWidth then
    match primaryTarget s.params.regs off with
    | .reg q r =>
      let s1 := s.setQueue q ((s.queue q).writeReg s.params.bits r (BitVec.ofNat 32 value))
      if writeTriggers s.params (s1.queue q) r then trigger q .write s1 else respond .none s1
    | .global => respond .none s
    | .undefined => respond .none s
  else respond .none s

/-- The word at a secondary offset (R300 to R302). -/
def secondaryWord (off : Nat) (s : State) : Word :=
  if off = secOffWritten then s.cbWrittenLast else if off = secOffReady then 0x00000001 else 0

/-- `SecondaryRead` (R300 to R303). -/
def secondaryRead (off width : Nat) (s : State) : State :=
  if width = mmioWidth then respond (.word (secondaryWord off s)) s else rejectRead width s

/-- `SecondaryWrite`: ignored (R303). -/
def secondaryWrite (_off _width _value : Nat) (s : State) : State := respond .none s

/-- The host's own store to LOCAL memory between accesses (R305, log 16): no MMIO access, no answer. -/
def localStore (addr : Nat) (data : Bytes) (s : State) : State :=
  if addr + data.length ≤ addrLimit then (pspWrite s addr data).getD s else s

/-- One action of the host. -/
def accept (e : HostEvent) (s : State) : State :=
  match e with
  | .primaryRead off width => primaryRead off width s
  | .primaryWrite off width value => primaryWrite off width value s
  | .secondaryRead off width => secondaryRead off width s
  | .secondaryWrite off width value => secondaryWrite off width value s
  | .localStore addr data => localStore addr data s

/-- The next host action, if there is one: the device does nothing by itself (47_queue_controller.md R267). -/
def serveHost (s : State) : State :=
  match s.pending with
  | [] => s
  | e :: rest => accept e (s.setPending rest)

/-! ## The descriptor fetch (47_queue_controller.md R257, R79) -/

/-- The 32 bytes at `head` of the queue being drained: one I/O manager read, the address zero-extended. -/
def fetchDesc (s : State) : Option Bytes := pspRead s (s.queue s.cur).head.toNat descBytes

/-- The error kind of a descriptor that is no command (40_dispatch.md R143, R150). -/
def rejectKind : Reject → ErrKind
  | .badLength => .decodeError
  | .unknownEngine _ => .decodeError
  | .unsupportedFunction _ _ => .notImplemented

/-- The loop test of a drain (R262): an inequality of two 32-bit values. -/
def drainDone (s : State) : Bool := (s.queue s.cur).head == (s.queue s.cur).tail

/-! ## Placing a descriptor where the controller fetches next -/

/-- A region cut so that `[addr, addr + n)` is outside it: the part below and the part above. -/
def Region.without (addr n : Nat) (r : Region) : List Region :=
  if min (addr + n) (r.base + r.size) ≤ max addr r.base then [r]
  else
    [{ base := r.base, size := addr - r.base },
      { base := addr + n, size := r.base + r.size - (addr + n) }]

/-- The drain in progress that fetches next at `head` of queue `cur`: enabled, HALT clear, `tail` past one descriptor (R255,
R256). -/
def Queue.armed (b : QueueBits) (q : Queue) : Queue :=
  { q with
    control := q.control &&& ~~~bitMask b.halt
    tail := q.head + BitVec.ofNat 32 descBytes
    enabled := true }

/-- The phase of a drain in progress: kept if there is one, else that of a read of `control`. -/
def Phase.armed : Phase → Phase
  | .idle => .draining (.read .control)
  | .draining reply => .draining reply

/-- The state with a descriptor stored, mapped and about to be fetched. -/
def armDesc (s : State) (d : Bytes) : State :=
  let a := (s.queue s.cur).head.toNat
  { s.setQueue s.cur ((s.queue s.cur).armed s.params.bits) with
    localMem := s.localMem.writeBytes a d
    params := { s.params with unmapped := s.params.unmapped.flatMap (Region.without a descBytes) }
    phase := s.phase.armed }

end Sys2Proof.Machine
end

