-- ==== Sys2Proof/Machine/Step.lean ====
section
/-! DEFINITION. One step (log 1): while no drain is in progress, the next host action; while one is, either the next descriptor
is fetched, decoded and executed, or the drain stops and its access ends (47_queue_controller.md R255). -/

namespace Sys2Proof.Machine

/-- One turn of the drain loop with a descriptor still queued (R255): a failed fetch and an illegal descriptor take the
failure path (R257, R259; 30_encoding.md R117). -/
def drainStep (s : State) : Host.Outcome State Fault Refusal :=
  match fetchDesc s with
  | none => .next (takeError .engineError s)
  | some d =>
    match decodeWith s.params.encoding d with
    | .error r => .next (takeError (rejectKind r) s)
    | .ok i => exec i s

/-- One step of the machine. -/
def step (s : State) : Host.Outcome State Fault Refusal :=
  match s.phase with
  | .idle => .next (serveHost s)
  | .draining _ => if drainDone s then .next (finishAccess (stopDrain s)) else drainStep s

/-- `s` with the descriptor whose bits are `w` (bits at or above `nbits` 0) stored where the next step fetches: in LOCAL
memory at `head` of the queue being drained, mapped, with a drain in progress and `tail` past it (log 2). -/
def State.withFetchWord (s : State) (nbits w : Nat) : State := armDesc s (toLe (w % 2 ^ nbits) descBytes)

end Sys2Proof.Machine
end

