-- ==== Sys2Proof/Machine/Access.lean ====
section
/-! DEFINITION. One whole MMIO access as one step, the granularity of 47_queue_controller.md R267 (D32): the steps of
`Sys2Proof.Machine.step` from the host's access to its answer, the drain that it triggers included (log 1). -/

namespace Sys2Proof.Machine

/-- The steps of the drain in progress until its access has ended; none where `fuel` steps do not end it. -/
def runDrain : Nat → State → Option State
  | 0, s => if s.phase = .idle then some s else none
  | fuel + 1, s =>
    if s.phase = .idle then some s
    else
      match step s with
      | .next t => runDrain fuel t
      | .fault f => nomatch f
      | .refused _ => none

/-- The most steps that a drain with a reachable `tail` takes: at most 2^27 - 1 descriptors, and the stop (R265). -/
def drainFuel : Nat := 2 ^ 27

/-- One MMIO access from the host's request to its answer (R267): the next host action and the whole drain that it triggers; from
within a drain, the rest of it. None only for a drain that runs on without end (R262, D37, log 23). -/
def access (s : State) : Option State :=
  match s.phase with
  | .idle => runDrain drainFuel (serveHost s)
  | .draining _ => runDrain drainFuel s

end Sys2Proof.Machine
end

