-- ==== Sys2Proof/Safety.lean ====
section
/-! DEFINITION. What the state keeps after every step (10_state.md R27 and the shapes of R10 to R24), and which programs the
hazard rules call well-behaved (70_reset_and_hazards.md R400 to R414). The machine checks none of the hazards. -/

namespace Sys2Proof.Machine

/-! ## What every step keeps -/

/-- The LSB is 4096 bytes, LOCAL memory 2^48 bytes, both in canonical form (R10, R25). -/
abbrev State.MemoryWf (s : State) : Prop := s.lsb.wf lsbBytes = true ∧ s.localMem.wf addrLimit = true

/-- RUN is never read back as 1 (R27 (a)); the reserved bits of `ists` are never set (48_mmio.md R279). -/
abbrev Queue.Wf (b : QueueBits) (q : Queue) : Prop := q.control &&& bitMask b.run = 0 ∧ q.ists &&& ~~~b.interrupts = 0

/-- Both queues' registers. -/
abbrev State.QueuesWf (s : State) : Prop := s.q0.Wf s.params.bits ∧ s.q1.Wf s.params.bits

/-- Between accesses `irq_line` is the level of R24 (R27 (c)). -/
abbrev State.IrqWf (s : State) : Prop := s.phase = .idle → s.irqLine = irqLevel s

/-- During a drain its queue is enabled and HALT is clear (47_queue_controller.md R255, R256). -/
abbrev State.DrainWf (s : State) : Prop :=
  s.phase = .idle ∨ ((s.queue s.cur).enabled = true ∧ (s.queue s.cur).control &&& bitMask s.params.bits.halt = 0)

/-- The shape of an AES session (R21). -/
abbrev AesSession.Wf (a : AesSession) : Prop :=
  (a.key.length = 16 ∨ a.key.length = 32) ∧ a.chain.length = 16 ∧ a.pend.length < 16

/-- The output count of a zlib session is that of its input, which is no decode error (R22). -/
abbrev ZlibSession.Wf (z : ZlibSession) : Prop :=
  z.zout = (inflate z.zin).out.length ∧ (inflate z.zin).status ≠ .error

/-- The AES session, if there is one. -/
abbrev State.AesWf (s : State) : Prop := ∀ a, s.aes = some a → a.Wf

/-- The zlib session, if there is one. -/
abbrev State.ZlibWf (s : State) : Prop := ∀ z, s.zlib = some z → z.Wf

/-- Everything above. -/
structure State.Inv (s : State) : Prop where
  memory : s.MemoryWf
  queues : s.QueuesWf
  irq : s.IrqWf
  drain : s.DrainWf
  aes : s.AesWf
  zlib : s.ZlibWf
  params : s.params.WF

/-! ## The bytes a command reads and writes -/

/-- The byte of a memory type at an address: the LSB, LOCAL memory, nothing for the two types that hold no bytes (20_memory.md
R50, R56, R57). -/
def State.byteAt (s : State) : MemType → Nat → Byte
  | .sb, a => s.lsb.read a
  | .localMem, a => s.localMem.read a
  | .system, _ => Memory.blank
  | .code3, _ => Memory.blank

/-- The `n` bytes of a memory type from `a` upward. -/
def State.bytesAt (s : State) (mt : MemType) (a n : Nat) : Bytes := (List.range n).map fun i => s.byteAt mt (a + i)

/-- The gateway serves `[a, a + n)` (R52 to R59); an access of no byte is never made, so it is always served (R58). -/
def State.serves (s : State) (mt : MemType) (a n : Nat) : Bool :=
  n == 0 ||
    match mt with
    | .sb => decide (a < 4096) && decide (a + n ≤ 4096)
    | .localMem => decide (a + n ≤ 2 ^ 48) && mappedRange s.params a n
    | .system => false
    | .code3 => false

/-- Every byte of the LSB and of LOCAL memory outside the `n` bytes at `d` is as before. -/
def SameOutside (s t : State) (d : Place) (n : Nat) : Prop :=
  ∀ mt a, (mt = d.mt → a < d.addr ∨ d.addr + n ≤ a) → t.byteAt mt a = s.byteAt mt a

/-- Every byte of the LSB and of LOCAL memory is as before. -/
def SameBytes (s t : State) : Prop := ∀ mt a, t.byteAt mt a = s.byteAt mt a

/-- The value of `cbWrittenLast` after a command that wrote `n` bytes at `d` (10_state.md R23). -/
def writtenAfter (d : Place) (n : Nat) : Word := if d.mt = .localMem then BitVec.ofNat 32 n else 0

/-- `cbWrittenLast` after a command that found a session of other parameters: kept or cleared, as the model's own parameter says
(R179, R201; DESIGN CHOICE, log 25). -/
def sessionErrorLeaves (s : State) : Word := if s.params.sessionErrorCount = .cleared then 0 else s.cbWrittenLast

/-! ## The two ends of a command, field by field -/

/-- What no command changes: the other queue, the parameters and the model's own fields. -/
def Untouched (s t : State) : Prop :=
  (∀ q, q ≠ s.cur → t.queue q = s.queue q) ∧ t.params = s.params ∧ t.pending = s.pending ∧ t.cur = s.cur

/-- The registers after a command that succeeded (47_queue_controller.md R258); the drain goes on, so the access has not
ended and the interrupt line is not evaluated (60_exceptions.md R361). -/
def Succeeded (s t : State) : Prop :=
  t.queue s.cur =
      { s.queue s.cur with
        status := 0
        ists := (s.queue s.cur).ists ||| bitMask s.params.bits.completion
        head := (s.queue s.cur).head + 32 } ∧
    Untouched s t ∧ t.phase = s.phase ∧ t.irqLine = s.irqLine ∧ t.responses = s.responses

/-- The registers after a command that failed (R259), the stop that follows it (R260) and the end of the access (48_mmio.md
R293): `head` stays, the interrupt line has the level of R364. -/
def Failed (s t : State) : Prop :=
  t.queue s.cur =
      { s.queue s.cur with
        status := s.params.statusError.setWidth 32
        ists :=
          (s.queue s.cur).ists ||| bitMask s.params.bits.error ||| bitMask s.params.bits.qStop |||
            (if (s.queue s.cur).head = (s.queue s.cur).tail then bitMask s.params.bits.qEmpty else 0)
        control := (s.queue s.cur).control ||| bitMask s.params.bits.halt } ∧
    Untouched s t ∧ t.phase = .idle ∧
      t.irqLine = ((t.q0.ien &&& t.q0.ists) != 0 || (t.q1.ien &&& t.q1.ists) != 0) ∧
        ∃ d, t.responses = { data := d, irq := { prio := 0, devId := 0x15, level := t.irqLine } } :: s.responses

/-- The three session slots are as before (40_dispatch.md R146). -/
def SameSessions (s t : State) : Prop := t.sha = s.sha ∧ t.aes = s.aes ∧ t.zlib = s.zlib

/-! ## The end of an MMIO access, and the beginning of a drain -/

/-- The level of the interrupt line (60_exceptions.md R364), written out. -/
def lineLevel (s : State) : Bool := (s.q0.ien &&& s.q0.ists) != 0 || (s.q1.ien &&& s.q1.ists) != 0

/-- `s` after an access that answers `d` and leaves `rest` to come (48_mmio.md R293): nothing else changes. -/
def answered (s : State) (rest : List HostEvent) (d : ReadData) : State :=
  { s with
    pending := rest
    irqLine := lineLevel s
    responses := { data := d, irq := { prio := 0, devId := 0x15, level := lineLevel s } } :: s.responses }

/-- `s` with a drain of queue `q` begun for an access that will answer `reply` (47_queue_controller.md R256): `HALT` is clear,
nothing else changes. -/
def drainBegun (s : State) (rest : List HostEvent) (q : QId) (reply : Reply) : State :=
  { s.setQueue q { s.queue q with control := (s.queue q).control &&& ~~~bitMask s.params.bits.halt } with
    pending := rest
    cur := q
    phase := .draining reply }

/-- Whether a host action is an MMIO access: all but the host's own store to LOCAL memory (48_mmio.md R275, R305). -/
def HostEvent.isMmio : HostEvent → Bool
  | .primaryRead .. => true
  | .primaryWrite .. => true
  | .secondaryRead .. => true
  | .secondaryWrite .. => true
  | .localStore .. => false

/-! ## The commands by engine -/

/-- A command with the operands its engine ignores at 0: `src_fixed` everywhere, `shaBits` and `init` of SHA, both flags of
PASSTHROUGH, RSA and ECC (30_encoding.md R116). -/
def withoutIgnored : Instr → Instr
  | .ptCopy _ src dst => .ptCopy ⟨false, false⟩ { src with fixed := false } dst
  | .ptSwap256 _ src dst => .ptSwap256 ⟨false, false⟩ { src with fixed := false } dst
  | .sha256 fl src _ => .sha256 { fl with init := false } { src with fixed := false } 0
  | .sha384 fl src _ => .sha384 { fl with init := false } { src with fixed := false } 0
  | .aes128EcbDec fl src dst key => .aes128EcbDec fl { src with fixed := false } dst key
  | .aes128EcbEnc fl src dst key => .aes128EcbEnc fl { src with fixed := false } dst key
  | .aes128CbcDec fl src dst key => .aes128CbcDec fl { src with fixed := false } dst key
  | .aes128CbcEnc fl src dst key => .aes128CbcEnc fl { src with fixed := false } dst key
  | .aes256EcbDec fl src dst key => .aes256EcbDec fl { src with fixed := false } dst key
  | .aes256EcbEnc fl src dst key => .aes256EcbEnc fl { src with fixed := false } dst key
  | .aes256CbcDec fl src dst key => .aes256CbcDec fl { src with fixed := false } dst key
  | .aes256CbcEnc fl src dst key => .aes256CbcEnc fl { src with fixed := false } dst key
  | .rsaModexp2048 _ src dst key => .rsaModexp2048 ⟨false, false⟩ { src with fixed := false } dst key
  | .rsaModexp4096 _ src dst key => .rsaModexp4096 ⟨false, false⟩ { src with fixed := false } dst key
  | .eccMulf _ src dst bits => .eccMulf ⟨false, false⟩ { src with fixed := false } dst bits
  | .eccAddf _ src dst bits => .eccAddf ⟨false, false⟩ { src with fixed := false } dst bits
  | .eccInvf _ src dst bits => .eccInvf ⟨false, false⟩ { src with fixed := false } dst bits
  | .eccMulc _ src dst bits => .eccMulc ⟨false, false⟩ { src with fixed := false } dst bits
  | .eccMuladdc _ src dst bits => .eccMuladdc ⟨false, false⟩ { src with fixed := false } dst bits
  | .zlibInflate fl src dst => .zlibInflate fl { src with fixed := false } dst

/-- The digest type, flags and source of a SHA command. -/
def shaOf : Instr → Option (ShaType × MsgFlags × Source)
  | .sha256 fl src _ => some (.sha256, fl, src)
  | .sha384 fl src _ => some (.sha384, fl, src)
  | _ => none

/-- The parameters (43_aes.md R193 to R200) and operands of an AES command. -/
def aesOf : Instr → Option (AesParams × AesReq)
  | .aes128EcbEnc fl src dst key => some (⟨16, .ecb, .enc⟩, ⟨fl, src, dst, key⟩)
  | .aes128EcbDec fl src dst key => some (⟨16, .ecb, .dec⟩, ⟨fl, src, dst, key⟩)
  | .aes128CbcEnc fl src dst key => some (⟨16, .cbc, .enc⟩, ⟨fl, src, dst, key⟩)
  | .aes128CbcDec fl src dst key => some (⟨16, .cbc, .dec⟩, ⟨fl, src, dst, key⟩)
  | .aes256EcbEnc fl src dst key => some (⟨32, .ecb, .enc⟩, ⟨fl, src, dst, key⟩)
  | .aes256EcbDec fl src dst key => some (⟨32, .ecb, .dec⟩, ⟨fl, src, dst, key⟩)
  | .aes256CbcEnc fl src dst key => some (⟨32, .cbc, .enc⟩, ⟨fl, src, dst, key⟩)
  | .aes256CbcDec fl src dst key => some (⟨32, .cbc, .dec⟩, ⟨fl, src, dst, key⟩)
  | _ => none

/-- The operand size (44_rsa.md R208, R209), source, destination and key of an RSA command. -/
def rsaOf : Instr → Option (Nat × Source × Place × Place)
  | .rsaModexp2048 _ src dst key => some (256, src, dst, key)
  | .rsaModexp4096 _ src dst key => some (512, src, dst, key)
  | _ => none

/-- The block bytes of the configured table and the result bytes (45_ecc.md R217), source, destination and `bits` of an ECC
command. -/
def eccOf (l : EccLayout) : Instr → Option (Nat × Nat × Source × Place × Nat)
  | .eccMulf _ src dst bits => some (l.mulf.blen, 72, src, dst, bits)
  | .eccAddf _ src dst bits => some (l.addf.blen, 72, src, dst, bits)
  | .eccInvf _ src dst bits => some (l.invf.blen, 72, src, dst, bits)
  | .eccMulc _ src dst bits => some (l.mulc.blen, 144, src, dst, bits)
  | .eccMuladdc _ src dst bits => some (l.muladdc.blen, 144, src, dst, bits)
  | _ => none

/-- Whether a command is of the ZLIB engine. -/
def isZlib : Instr → Bool
  | .zlibInflate .. => true
  | _ => false

/-- The 72-byte little-endian number at offset `off` of the ECC block that a command reads (R216, R219). -/
def eccOperand (s : State) (src : Source) (off : Nat) : Nat := le (s.bytesAt src.mt (src.addr + off) 72)

/-- The session an AES command works on (43_aes.md R186 to R188, R201): a new one from the key and the IV slot when `init` is
set or there is none, else the one present if its parameters are the command's. -/
def aesOpens (p : AesParams) (r : AesReq) (s : State) : Option AesSession :=
  if r.fl.init = true ∨ s.aes = none then
    if s.serves r.key.mt r.key.addr p.klen then
      some
        { key := (s.bytesAt r.key.mt r.key.addr p.klen).reverse
          mode := p.mode
          dir := p.dir
          chain := if p.mode = .cbc then (s.bytesAt .sb (32 * r.src.ctx) 16).reverse else List.replicate 16 0
          pend := [] }
    else none
  else
    s.aes.filter fun a => decide (a.key.length = p.klen ∧ a.mode = p.mode ∧ a.dir = p.dir)

/-- How many bytes an AES command outputs: the whole blocks of the pending and the source bytes (R190). -/
def aesOutLen (a : AesSession) (src : Source) : Nat := 16 * ((a.pend.length + src.cbSrc) / 16)

/-- The `n` bytes written at `d` and the source do not overlap in the same memory (R405). -/
def sourceDisjoint (x : Source) (d : Place) (n : Nat) : Bool :=
  x.mt != d.mt || decide (min (x.addr + x.cbSrc) (d.addr + n) ≤ max x.addr d.addr)

/-- The source is read as it stood before the command, although the command moves it in pieces of `chunk` bytes and writes `n`
bytes at `d`: one piece, or no overlap, or a destination not above the source (20_memory.md R76, 70_reset_and_hazards.md
R405). -/
def sourceStable (chunk : Nat) (x : Source) (d : Place) (n : Nat) : Prop :=
  x.cbSrc ≤ chunk ∨ sourceDisjoint x d n = true ∨ x.mt = d.mt ∧ d.addr ≤ x.addr

/-! ## Outcomes -/

/-- The step goes on. -/
def Goes (o : Host.Outcome State Fault Refusal) : Prop := ∃ t, o = .next t

/-! ## Well-behaved programs (R400 to R414) -/

/-- The source, destination and key of a command; the destination of a SHA command is the slot of its context id
(20_memory.md R61). -/
def operands : Instr → Source × Place × Option Place
  | .ptCopy _ x d => (x, d, none)
  | .ptSwap256 _ x d => (x, d, none)
  | .sha256 _ x _ => (x, shaDest x, none)
  | .sha384 _ x _ => (x, shaDest x, none)
  | .aes128EcbDec _ x d k => (x, d, some k)
  | .aes128EcbEnc _ x d k => (x, d, some k)
  | .aes128CbcDec _ x d k => (x, d, some k)
  | .aes128CbcEnc _ x d k => (x, d, some k)
  | .aes256EcbDec _ x d k => (x, d, some k)
  | .aes256EcbEnc _ x d k => (x, d, some k)
  | .aes256CbcDec _ x d k => (x, d, some k)
  | .aes256CbcEnc _ x d k => (x, d, some k)
  | .rsaModexp2048 _ x d k => (x, d, some k)
  | .rsaModexp4096 _ x d k => (x, d, some k)
  | .eccMulf _ x d _ => (x, d, none)
  | .eccAddf _ x d _ => (x, d, none)
  | .eccInvf _ x d _ => (x, d, none)
  | .eccMulc _ x d _ => (x, d, none)
  | .eccMuladdc _ x d _ => (x, d, none)
  | .zlibInflate _ x d => (x, d, none)

/-- SYSTEM memory is not used (R414). -/
def noSystem (i : Instr) : Bool :=
  (operands i).1.mt != .system && (operands i).2.1.mt != .system &&
    (operands i).2.2.all (·.mt != .system)

/-- `tail` can be reached from `head` in steps of 32, both aligned (R403, R404). -/
def Queue.linear (q : Queue) : Bool := q.head.toNat % 32 == 0 && q.tail.toNat % 32 == 0 && decide (q.head.toNat ≤ q.tail.toNat)

/-- The descriptors still queued on a linear queue (R265). -/
def Queue.queued (q : Queue) : Nat := (q.tail - q.head).toNat / descBytes

/-- A key outside the protected range of the LSB (R412, 43_aes.md R189). -/
def keyUnprotected (i : Instr) : Bool := (operands i).2.2.all fun k => !protectedKey k

end Sys2Proof.Machine
end

