-- ==== Sys2Proof/Certificates/Slice0/Obligations.lean ====
section
/-! DEFINITION. The statements about the machine, from the numbered rules of `spec/`. Each one is listed in OBLIGATIONS.json.
`∃ t, exec i s = .next t ∧ …` says that the command completes and what the state after it holds; `Succeeded` and `Failed`
(Safety.lean) say every queue register and every field of the model's own after a command. -/

open Sys2Proof Sys2Proof.Machine

/-! ## Encoding (30_encoding.md, 40_dispatch.md) -/

/-- For every configured encoding, the decoder reads back every well-formed command the encoder writes, every operand at every
value (R100 to R114, R119). -/
def Obligations.DecodeInvertsEncode : Prop :=
  ∀ (c : Encoding) (i : Instr), c.WF → i.WellFormed → decodeWith c (encodeWith c i) = .ok i

/-- A 32-byte string decodes to a command exactly when its `dw0` matches the command's row of the table (R115); what is
decoded is well-formed. -/
def Obligations.DecodeFollowsOpcodeTable : Prop :=
  (∀ d i, decode d = .ok i → d.length = 32 ∧ i.WellFormed ∧ descWord d 0 &&& i.dw0Mask = i.dw0Match) ∧
    ∀ (d : Bytes) (j : Instr), d.length = 32 → descWord d 0 &&& j.dw0Mask = j.dw0Match →
      ∃ i, decode d = .ok i ∧ i.dw0Match = j.dw0Match

/-- A 32-byte string that is no command has an unknown engine code (by default 1, 2, 8 to 15), which is a decode error, or a
known engine with an unsupported function value, which is not implemented (R117). -/
def Obligations.IllegalDescriptorsAreClassified : Prop :=
  (∀ (d : Bytes) (r : Reject), d.length = 32 → decode d = .error r →
    (r = .unknownEngine (field (descWord d 0) 20 4) ∧ rejectKind r = .decodeError ∧
        field (descWord d 0) 20 4 ∈ [1, 2, 8, 9, 10, 11, 12, 13, 14, 15]) ∨
      (r = .unsupportedFunction (field (descWord d 0) 20 4) (field (descWord d 0) 5 15) ∧
        rejectKind r = .notImplemented ∧ field (descWord d 0) 20 4 ∈ [0, 3, 4, 5, 7])) ∧
    ∀ (c : Encoding) (d : Bytes) (r : Reject), d.length = 32 → decodeWith c d = .error r →
      (r = .unknownEngine (dw0Engine c d) ∧ rejectKind r = .decodeError ∧
          dw0Engine c d ∉ [c.engines.aes, c.engines.sha, c.engines.rsa, c.engines.passthrough, c.engines.zlib, c.engines.ecc]) ∨
        (r = .unsupportedFunction (dw0Engine c d) (dw0Function c d) ∧ rejectKind r = .notImplemented ∧
          dw0Engine c d ∈ [c.engines.aes, c.engines.sha, c.engines.rsa, c.engines.passthrough, c.engines.ecc])

/-- The bits that R116 lists do not matter. Two descriptors that differ in ignored bits alone (of `dw0` outside its fields, of
the function fields of SHA, PASSTHROUGH, ZLIB and of an unknown engine, of the packed memory-type words, and the key fields of
an engine without a key) decode to the same command or are rejected with the same kind; and a command runs alike whatever
its `src_fixed`, its `shaBits` and the flags its engine ignores. -/
def Obligations.IgnoredBitsDoNotMatter : Prop :=
  (∀ d e : Bytes, d.length = 32 → e.length = 32 →
    field (descWord d 0) 3 2 = field (descWord e 0) 3 2 → field (descWord d 0) 20 4 = field (descWord e 0) 20 4 →
    (field (descWord d 0) 20 4 = 3 → field (descWord d 0) 15 4 = field (descWord e 0) 15 4) →
    (field (descWord d 0) 20 4 = 5 → field (descWord d 0) 5 7 = field (descWord e 0) 5 7) →
    (field (descWord d 0) 20 4 ∈ [0, 4, 7] → field (descWord d 0) 5 15 = field (descWord e 0) 5 15) →
    descWord d 1 = descWord e 1 → descWord d 2 = descWord e 2 →
    field (descWord d 3) 0 25 = field (descWord e 3) 0 25 → bitAt (descWord d 3) 31 = bitAt (descWord e 3) 31 →
    descWord d 4 = descWord e 4 →
    (if field (descWord d 0) 20 4 = 3 then descWord d 5 = descWord e 5
      else field (descWord d 5) 0 18 = field (descWord e 5) 0 18) →
    (field (descWord d 0) 20 4 ∈ [0, 4] →
      descWord d 6 = descWord e 6 ∧ field (descWord d 7) 0 18 = field (descWord e 7) 0 18) →
      (∀ i, decode d = .ok i → decode e = .ok i) ∧
      (∀ r, decode d = .error r → ∃ q, decode e = .error q ∧ rejectKind q = rejectKind r) ∧
      (field (descWord d 0) 5 15 = field (descWord e 0) 5 15 → decode d = decode e)) ∧
  ∀ (i : Instr) (s : State), exec (withoutIgnored i) s = exec i s

/-- Words written out from the encoding decode to the commands they stand for: the example of R119 and one command of each
engine. -/
def Obligations.WordsDecodeAsWritten : Prop :=
  decode [0x10, 0x80, 0x31, 0x00, 0x03, 0x00, 0x00, 0x00, 0x00, 0x20, 0x00, 0x00, 0x00, 0x00, 0x06, 0x00,
      0x18, 0x00, 0x00, 0x00, 0x00, 0x00, 0x00, 0x00, 0x00, 0x00, 0x00, 0x00, 0x00, 0x00, 0x00, 0x00] =
    .ok (.sha256 ⟨false, true⟩ ⟨3, 0x2000, .localMem, 1, false⟩ 24) ∧
  decode [0x40, 0x00, 0x50, 0x00, 0x20, 0x00, 0x00, 0x00, 0xC0, 0x00, 0x00, 0x00, 0x00, 0x00, 0x01, 0x00,
      0x00, 0x30, 0x00, 0x00, 0x00, 0x00, 0x02, 0x00, 0x00, 0x00, 0x00, 0x00, 0x00, 0x00, 0x00, 0x00] =
    .ok (.ptSwap256 ⟨false, false⟩ ⟨32, 0xC0, .sb, 0, false⟩ ⟨0x3000, .localMem⟩) ∧
  decode [0x18, 0x20, 0x08, 0x00, 0x10, 0x00, 0x00, 0x00, 0x00, 0x20, 0x00, 0x00, 0x00, 0x00, 0x0E, 0x00,
      0x00, 0x30, 0x00, 0x00, 0x00, 0x00, 0x02, 0x00, 0x40, 0x00, 0x00, 0x00, 0x00, 0x00, 0x01, 0x00] =
    .ok (.aes256CbcDec ⟨true, true⟩ ⟨16, 0x2000, .localMem, 3, false⟩ ⟨0x3000, .localMem⟩ ⟨0x40, .sb⟩) ∧
  decode [0x00, 0x00, 0x42, 0x00, 0x00, 0x04, 0x00, 0x00, 0x00, 0x20, 0x00, 0x00, 0x00, 0x00, 0x02, 0x00,
      0x00, 0x40, 0x00, 0x00, 0x00, 0x00, 0x02, 0x00, 0x00, 0x30, 0x00, 0x00, 0x00, 0x00, 0x02, 0x00] =
    .ok (.rsaModexp4096 ⟨false, false⟩ ⟨1024, 0x2000, .localMem, 0, false⟩ ⟨0x4000, .localMem⟩ ⟨0x3000, .localMem⟩) ∧
  decode [0x00, 0x30, 0x78, 0x00, 0x40, 0x02, 0x00, 0x00, 0x00, 0x20, 0x00, 0x00, 0x00, 0x00, 0x02, 0x00,
      0x00, 0x30, 0x00, 0x00, 0x00, 0x00, 0x02, 0x00, 0x00, 0x00, 0x00, 0x00, 0x00, 0x00, 0x00, 0x00] =
    .ok (.eccMuladdc ⟨false, false⟩ ⟨576, 0x2000, .localMem, 0, false⟩ ⟨0x3000, .localMem⟩ 384) ∧
  decode [0x18, 0x00, 0x60, 0x00, 0x0C, 0x00, 0x00, 0x00, 0x00, 0x20, 0x00, 0x00, 0x00, 0x00, 0x02, 0x00,
      0x00, 0x30, 0x00, 0x00, 0x00, 0x00, 0x02, 0x00, 0x00, 0x00, 0x00, 0x00, 0x00, 0x00, 0x00, 0x00] =
    .ok (.zlibInflate ⟨true, true⟩ ⟨12, 0x2000, .localMem, 0, false⟩ ⟨0x3000, .localMem⟩)

/-! ## Memory (20_memory.md) -/

/-- An LSB access of `n` bytes at `a` succeeds exactly when `a + n ≤ 4096` and `a < 4096`, else it is out of range; a failing
access returns no state, so it changes nothing (R55). -/
def Obligations.LsbAccessIsBounded : Prop :=
  ∀ (s : State) (a n : Nat) (v : Bytes), 1 ≤ n → v.length = n →
    if a + n ≤ 4096 ∧ a < 4096 then
      memRead s .sb a n = .ok (s.bytesAt .sb a n) ∧ ∃ t, memWrite s .sb a v = .ok t
    else memRead s .sb a n = .error .outOfRange ∧ memWrite s .sb a v = .error .outOfRange

/-- The kind an access raises: `Unsupported` for SYSTEM and code 3, `OutOfRange` for the LSB and for a LOCAL address at or above
2^48, `EngineError` for what the I/O manager refuses (R52, R53, R56, R57, R59). That SYSTEM always fails, that code 3 fails
alike and the 2^48 rule are the spec's own decisions D18, D17, D20. A SYSTEM or code-3 access at or above 2^48 falls under
R56 or R57 and under R59; that it is `Unsupported` is the model's ranking (DEDUCED, log 13). -/
def Obligations.UnservedAccessesFail : Prop :=
  ∀ (s : State) (mt : MemType) (a : Nat) (v : Bytes), v ≠ [] → s.serves mt a v.length = false →
    ∃ k, memRead s mt a v.length = .error k ∧ memWrite s mt a v = .error k ∧
      k = (match mt with
        | .system => .unsupported
        | .code3 => .unsupported
        | .sb => .outOfRange
        | .localMem => if 2 ^ 48 < a + v.length then .outOfRange else .engineError)

/-- A served write stores its bytes where a read finds them, changes no other byte and no other field, and adds its length to
`cbWrittenLast` when it goes to LOCAL memory (R53, R54). -/
def Obligations.WriteIsReadBack : Prop :=
  ∀ (s : State) (mt : MemType) (a : Nat) (v : Bytes), s.MemoryWf → v ≠ [] → s.serves mt a v.length = true →
    ∃ t, memWrite s mt a v = .ok t ∧ t.MemoryWf ∧ memRead t mt a v.length = .ok v ∧
      SameOutside s t ⟨a, mt⟩ v.length ∧
      t = { s with
        lsb := t.lsb
        localMem := t.localMem
        cbWrittenLast := if mt = .localMem then s.cbWrittenLast + BitVec.ofNat 32 v.length else s.cbWrittenLast }

/-- A reverse-mode write of `b0 … b(n-1)` at cursor `d` leaves `b(n-1) … b0` at `d - n … d - 1`, changes no other byte, and
counts each byte. A write over the budget is out of range and writes nothing. Where the `i`-th byte down is the first that is
not served, the write raises that access's kind after exactly the `i` bytes before it are written (R64). -/
def Obligations.ReverseWriteReversesBytes : Prop :=
  ∀ (s : State) (x : Xfer) (v : Bytes), x.reverse = true → v ≠ [] →
    (x.fits v.length = false → xferWrite x v s = .raise .outOfRange s) ∧
    (s.MemoryWf → x.fits v.length = true → v.length ≤ x.dstAddr →
      s.serves x.dstMt (x.dstAddr - v.length) v.length = true →
      ∃ t x', xferWrite x v s = .ok x' t ∧ t.bytesAt x.dstMt (x.dstAddr - v.length) v.length = v.reverse ∧
        SameOutside s t ⟨x.dstAddr - v.length, x.dstMt⟩ v.length ∧ x'.dstAddr = x.dstAddr - v.length ∧
        x'.wrLeft = x.wrLeft.map (· - v.length) ∧
        t = { s with
          lsb := t.lsb
          localMem := t.localMem
          cbWrittenLast := if x.dstMt = .localMem then s.cbWrittenLast + BitVec.ofNat 32 v.length else s.cbWrittenLast }) ∧
    ∀ i, i < v.length → s.MemoryWf → x.fits v.length = true → v.length ≤ x.dstAddr →
      s.serves x.dstMt (x.dstAddr - i) i = true → s.serves x.dstMt (x.dstAddr - i - 1) 1 = false →
      ∃ k t, xferWrite x v s = .raise k t ∧ memRead s x.dstMt (x.dstAddr - i - 1) 1 = .error k ∧
        t.bytesAt x.dstMt (x.dstAddr - i) i = (v.take i).reverse ∧ SameOutside s t ⟨x.dstAddr - i, x.dstMt⟩ i ∧
        t = { s with
          lsb := t.lsb
          localMem := t.localMem
          cbWrittenLast := if x.dstMt = .localMem then s.cbWrittenLast + BitVec.ofNat 32 i else s.cbWrittenLast }

/-! ## PASSTHROUGH (41_passthrough.md) -/

/-- `pt.copy` completes for every count, served source and served destination: the destination bytes are the source bytes,
`cbWrittenLast` counts them for LOCAL, nothing else changes (R161). The byte clause is about sources read as they stood
before the command; the other overlaps are `CopyProceedsPieceByPiece`. -/
def Obligations.CopyMovesBytes : Prop :=
  ∀ (s : State) (fl : MsgFlags) (src : Source) (dst : Place), s.MemoryWf →
    s.serves src.mt src.addr src.cbSrc = true → s.serves dst.mt dst.addr src.cbSrc = true →
    ∃ t, exec (.ptCopy fl src dst) s = .next t ∧ Succeeded s t ∧ SameSessions s t ∧ t.freeCount = s.freeCount ∧
      SameOutside s t dst src.cbSrc ∧ t.cbWrittenLast = writtenAfter dst src.cbSrc ∧
      (sourceStable 4096 src dst src.cbSrc →
        t.bytesAt dst.mt dst.addr src.cbSrc = s.bytesAt src.mt src.addr src.cbSrc)

/-- A `pt.copy` of more than 4096 bytes leaves the bytes that a copy of the first 4096 and then a copy of the rest leave,
whatever the overlap (R76, R161). A `pt.copy` whose piece at `p = 4096 * j` has a source or a destination that is not served
fails with exactly the pieces before it written, and `cbWrittenLast` counts them (R161, R66). -/
def Obligations.CopyProceedsPieceByPiece : Prop :=
  ∀ (s : State) (fl : MsgFlags) (src : Source) (dst : Place), s.MemoryWf →
    (4096 < src.cbSrc → s.serves src.mt src.addr src.cbSrc = true → s.serves dst.mt dst.addr src.cbSrc = true →
      ∃ t u w, exec (.ptCopy fl src dst) s = .next t ∧ exec (.ptCopy fl { src with cbSrc := 4096 } dst) s = .next u ∧
        exec (.ptCopy fl { src with addr := src.addr + 4096, cbSrc := src.cbSrc - 4096 }
          { dst with addr := dst.addr + 4096 }) u = .next w ∧
        SameBytes w t) ∧
    ∀ (r : Reply) (j p m : Nat), s.phase = .draining r → p = 4096 * j → p < src.cbSrc → m = min 4096 (src.cbSrc - p) →
      s.serves src.mt src.addr p = true → s.serves dst.mt dst.addr p = true →
      (s.serves src.mt (src.addr + p) m = false ∨ s.serves dst.mt (dst.addr + p) m = false) →
      ∃ t, exec (.ptCopy fl src dst) s = .next t ∧ Failed s t ∧ SameSessions s t ∧ t.freeCount = s.freeCount ∧
        SameOutside s t dst p ∧ t.cbWrittenLast = writtenAfter dst p ∧
        (sourceStable 4096 { src with cbSrc := p } dst p → t.bytesAt dst.mt dst.addr p = s.bytesAt src.mt src.addr p)

/-- `pt.swap256` of 32 bytes completes and writes them reversed, also in place; nothing else changes (R162). -/
def Obligations.SwapReversesBytes : Prop :=
  ∀ (s : State) (fl : MsgFlags) (src : Source) (dst : Place), s.MemoryWf → src.cbSrc = 32 →
    s.serves src.mt src.addr 32 = true → s.serves dst.mt dst.addr 32 = true →
    ∃ t, exec (.ptSwap256 fl src dst) s = .next t ∧ Succeeded s t ∧ SameSessions s t ∧ t.freeCount = s.freeCount ∧
      SameOutside s t dst 32 ∧ t.cbWrittenLast = writtenAfter dst 32 ∧
      ∀ i, i < 32 → t.byteAt dst.mt (dst.addr + i) = s.byteAt src.mt (src.addr + 31 - i)

/-- `pt.swap256` with any other count fails with no side effect at all (R163). With 32 bytes it fails on a source that is not
served with nothing written, and where the `i`-th destination byte from the top is the first that is not served with the `i`
bytes above it written (R162, R64): an LSB destination that leaves the LSB fails at the first byte and writes nothing. -/
def Obligations.SwapFailsCleanly : Prop :=
  ∀ (s : State) (fl : MsgFlags) (src : Source) (dst : Place) (r : Reply), s.phase = .draining r →
    (src.cbSrc ≠ 32 →
      ∃ t, exec (.ptSwap256 fl src dst) s = .next t ∧ Failed s t ∧ SameSessions s t ∧ SameBytes s t ∧
        t.cbWrittenLast = s.cbWrittenLast ∧ t.freeCount = s.freeCount) ∧
    (src.cbSrc = 32 →
      s.serves src.mt src.addr 32 = false ∨ s.serves src.mt src.addr 32 = true ∧ dst.mt = .sb ∧ 4096 < dst.addr + 32 →
      ∃ t, exec (.ptSwap256 fl src dst) s = .next t ∧ Failed s t ∧ SameSessions s t ∧ SameBytes s t ∧
        t.cbWrittenLast = 0 ∧ t.freeCount = s.freeCount) ∧
    ∀ i, src.cbSrc = 32 → s.serves src.mt src.addr 32 = true → s.MemoryWf → i < 32 →
      s.serves dst.mt (dst.addr + 32 - i) i = true → s.serves dst.mt (dst.addr + 31 - i) 1 = false →
      ∃ t, exec (.ptSwap256 fl src dst) s = .next t ∧ Failed s t ∧ SameSessions s t ∧ t.freeCount = s.freeCount ∧
        SameOutside s t ⟨dst.addr + 32 - i, dst.mt⟩ i ∧ t.cbWrittenLast = writtenAfter dst i ∧
        ∀ k, k < i → t.byteAt dst.mt (dst.addr + 31 - k) = s.byteAt src.mt (src.addr + k)

/-! ## SHA (42_sha.md) -/

/-- A SHA command without `eom` completes: it appends its source bytes to the running message, or starts one, whatever `init`
says, and writes nothing (R172, R173). -/
def Obligations.ShaUpdateAppends : Prop :=
  ∀ (s : State) (i : Instr) (ty : ShaType) (fl : MsgFlags) (src : Source), shaOf i = some (ty, fl, src) →
    fl.eom = false → (∀ x, s.sha = some x → x.type = ty) → s.serves src.mt src.addr src.cbSrc = true →
    ∃ t, exec i s = .next t ∧ Succeeded s t ∧
      t.sha = some ⟨ty, (s.sha.elim [] ShaSession.msg) ++ s.bytesAt src.mt src.addr src.cbSrc⟩ ∧
      t.aes = s.aes ∧ t.zlib = s.zlib ∧ t.freeCount = s.freeCount ∧ SameBytes s t ∧ t.cbWrittenLast = 0

/-- A SHA command with `eom` completes: the digest of the whole message is written byte-reversed at slot `src_ctx` of the LSB
and the session is emptied (R173 to R176). -/
def Obligations.ShaFinalWritesReversedDigest : Prop :=
  ∀ (s : State) (i : Instr) (ty : ShaType) (fl : MsgFlags) (src : Source), shaOf i = some (ty, fl, src) → s.MemoryWf →
    fl.eom = true → (∀ x, s.sha = some x → x.type = ty) → s.serves src.mt src.addr src.cbSrc = true →
    32 * src.ctx + shaLen ty ≤ 4096 →
    ∃ t, exec i s = .next t ∧ Succeeded s t ∧
      t.bytesAt .sb (32 * src.ctx) (shaLen ty) =
        (shaDigest ty ((s.sha.elim [] ShaSession.msg) ++ s.bytesAt src.mt src.addr src.cbSrc)).reverse ∧
      SameOutside s t ⟨32 * src.ctx, .sb⟩ (shaLen ty) ∧
      t.sha = none ∧ t.aes = s.aes ∧ t.zlib = s.zlib ∧ t.freeCount = s.freeCount ∧ t.cbWrittenLast = 0

/-- A message cut in two commands gives the digest of the message in one command (R180 (a), property 3 for two parts). -/
def Obligations.ShaSplitGivesSameDigest : Prop :=
  ∀ (s : State) (src : Source) (a n m : Nat) (bits : Nat), s.MemoryWf → s.sha = none →
    s.serves src.mt a (n + m) = true → 32 * src.ctx + 48 ≤ 4096 →
    (∃ t u w,
      exec (.sha256 ⟨true, false⟩ { src with addr := a, cbSrc := n } bits) s = .next t ∧
      exec (.sha256 ⟨false, true⟩ { src with addr := a + n, cbSrc := m } bits) t = .next u ∧
      exec (.sha256 ⟨true, true⟩ { src with addr := a, cbSrc := n + m } bits) s = .next w ∧ SameBytes u w) ∧
    ∃ t u w,
      exec (.sha384 ⟨true, false⟩ { src with addr := a, cbSrc := n } bits) s = .next t ∧
      exec (.sha384 ⟨false, true⟩ { src with addr := a + n, cbSrc := m } bits) t = .next u ∧
      exec (.sha384 ⟨true, true⟩ { src with addr := a, cbSrc := n + m } bits) s = .next w ∧ SameBytes u w

/-- A SHA command fails on a session of the other type (the spec's decision D21; what `cbWrittenLast` is then, kept or cleared,
is a parameter of the model, its choice, log 25), on a source that is not served (R178), and `sha.384` with context id 127 fails at its first
digest byte (R175). Each time nothing is written and the session is emptied (R178, R179). -/
def Obligations.ShaFailuresEmptyTheSession : Prop :=
  ∀ (s : State) (i : Instr) (ty : ShaType) (fl : MsgFlags) (src : Source) (r : Reply), s.phase = .draining r →
    shaOf i = some (ty, fl, src) →
    ((∃ x, s.sha = some x ∧ x.type ≠ ty) →
      ∃ t, exec i s = .next t ∧ Failed s t ∧ t.sha = none ∧ t.aes = s.aes ∧ t.zlib = s.zlib ∧ SameBytes s t ∧
        t.cbWrittenLast = sessionErrorLeaves s ∧ t.freeCount = s.freeCount) ∧
    ((∀ x, s.sha = some x → x.type = ty) →
      s.serves src.mt src.addr src.cbSrc = false ∨ fl.eom = true ∧ ty = .sha384 ∧ src.ctx = 127 →
      ∃ t, exec i s = .next t ∧ Failed s t ∧ t.sha = none ∧ t.aes = s.aes ∧ t.zlib = s.zlib ∧ SameBytes s t ∧
        t.cbWrittenLast = 0 ∧ t.freeCount = s.freeCount)

/-! ## AES (43_aes.md) -/

/-- An AES command on the local path completes, for each of the eight commands, starting or continuing a session: the whole
blocks of the pending and the source bytes go through the cipher to the destination, the rest stays pending, `eom` empties
the session; nothing else changes (R186 to R192). -/
def Obligations.AesProcessesWholeBlocks : Prop :=
  ∀ (s : State) (i : Instr) (p : AesParams) (r : AesReq) (a : AesSession), aesOf i = some (p, r) → s.MemoryWf → s.AesWf →
    (s.params.proxy = false ∨ protectedKey r.key = false) → aesOpens p r s = some a →
    s.serves r.src.mt r.src.addr r.src.cbSrc = true → s.serves r.dst.mt r.dst.addr (aesOutLen a r.src) = true →
    (r.fl.eom = true → (a.pend.length + r.src.cbSrc) % 16 = 0) →
    ∃ t, exec i s = .next t ∧ Succeeded s t ∧ t.sha = s.sha ∧ t.zlib = s.zlib ∧ t.freeCount = s.freeCount ∧
      SameOutside s t r.dst (aesOutLen a r.src) ∧ t.cbWrittenLast = writtenAfter r.dst (aesOutLen a r.src) ∧
      (r.fl.eom = true → t.aes = none) ∧
      (sourceStable 512 r.src r.dst (aesOutLen a r.src) →
        t.bytesAt r.dst.mt r.dst.addr (aesOutLen a r.src) =
            (aesFeed a (s.bytesAt r.src.mt r.src.addr r.src.cbSrc)).1 ∧
          (r.fl.eom = false → t.aes = some (aesFeed a (s.bytesAt r.src.mt r.src.addr r.src.cbSrc)).2))

/-- An AES command on the local path fails: when it continues a session of other parameters, before anything moves (the spec's
decision D22; what `cbWrittenLast` is then, kept or cleared, is a parameter of the model, its choice, log 25); when it starts a session from a key that is not served, before anything moves (R187, R202); when a source
piece, or what the piece outputs, at source offset `n = 512 * j` is not served, after the output of the pieces before it is
written (R202, R66); and when its message is not whole blocks, at its `eom` after all its whole blocks are written (R192).
Each time the session is emptied. -/
def Obligations.AesFailuresEmptyTheSession : Prop :=
  ∀ (s : State) (i : Instr) (p : AesParams) (r : AesReq) (reply : Reply), aesOf i = some (p, r) →
    s.phase = .draining reply → (s.params.proxy = false ∨ protectedKey r.key = false) →
    (r.fl.init = false → ∀ x, s.aes = some x → x.key.length ≠ p.klen ∨ x.mode ≠ p.mode ∨ x.dir ≠ p.dir →
      ∃ t, exec i s = .next t ∧ Failed s t ∧ t.aes = none ∧ t.sha = s.sha ∧ t.zlib = s.zlib ∧ SameBytes s t ∧
        t.cbWrittenLast = sessionErrorLeaves s ∧ t.freeCount = s.freeCount) ∧
    (r.fl.init = true ∨ s.aes = none → s.serves r.key.mt r.key.addr p.klen = false →
      ∃ t, exec i s = .next t ∧ Failed s t ∧ t.aes = none ∧ t.sha = s.sha ∧ t.zlib = s.zlib ∧ SameBytes s t ∧
        t.cbWrittenLast = 0 ∧ t.freeCount = s.freeCount) ∧
    (∀ (a : AesSession) (j n m : Nat) (before after : Source), s.MemoryWf → s.AesWf → aesOpens p r s = some a →
      n = 512 * j → n < r.src.cbSrc → m = min 512 (r.src.cbSrc - n) →
      before = { r.src with cbSrc := n } → after = { r.src with cbSrc := n + m } →
      s.serves r.src.mt r.src.addr n = true → s.serves r.dst.mt r.dst.addr (aesOutLen a before) = true →
      (s.serves r.src.mt (r.src.addr + n) m = false ∨
        s.serves r.dst.mt (r.dst.addr + aesOutLen a before) (aesOutLen a after - aesOutLen a before) = false) →
      ∃ t, exec i s = .next t ∧ Failed s t ∧ t.aes = none ∧ t.sha = s.sha ∧ t.zlib = s.zlib ∧
        SameOutside s t r.dst (aesOutLen a before) ∧ t.cbWrittenLast = writtenAfter r.dst (aesOutLen a before) ∧
        t.freeCount = s.freeCount ∧
        (sourceStable 512 before r.dst (aesOutLen a before) →
          t.bytesAt r.dst.mt r.dst.addr (aesOutLen a before) = (aesFeed a (s.bytesAt r.src.mt r.src.addr n)).1)) ∧
    ∀ a, s.MemoryWf → s.AesWf → aesOpens p r s = some a → s.serves r.src.mt r.src.addr r.src.cbSrc = true →
      s.serves r.dst.mt r.dst.addr (aesOutLen a r.src) = true → r.fl.eom = true →
      (a.pend.length + r.src.cbSrc) % 16 ≠ 0 →
      ∃ t, exec i s = .next t ∧ Failed s t ∧ t.aes = none ∧ t.sha = s.sha ∧ t.zlib = s.zlib ∧
        SameOutside s t r.dst (aesOutLen a r.src) ∧ t.cbWrittenLast = writtenAfter r.dst (aesOutLen a r.src) ∧
        t.freeCount = s.freeCount ∧
        (sourceStable 512 r.src r.dst (aesOutLen a r.src) →
          t.bytesAt r.dst.mt r.dst.addr (aesOutLen a r.src) =
            (aesFeed a (s.bytesAt r.src.mt r.src.addr r.src.cbSrc)).1)

/-- A protected-key AES command with a proxy uses no session: the proxy is called with `dw0`, the count, the source bytes, the
key address and the IV as it lies in its slot (none in ECB), and its answer, a free value of the model (log 8), is written, or
the command fails with nothing written; every answer is admitted. A source that is not served fails before the call, a
destination that is not served after it (R189, R202). -/
def Obligations.AesProxyAnswerIsWritten : Prop :=
  ∀ (s : State) (i : Instr) (p : AesParams) (r : AesReq) (reply : Reply) (call : ProxyCall), aesOf i = some (p, r) →
    s.MemoryWf → s.phase = .draining reply → s.params.proxy = true → protectedKey r.key = true →
    call =
      { dw0 := i.dw0 s.params.encoding
        cbSrc := r.src.cbSrc
        src := s.bytesAt r.src.mt r.src.addr r.src.cbSrc
        keyAddr := r.key.addr
        iv := if p.mode = .cbc then s.bytesAt .sb (32 * r.src.ctx) 16 else [] } →
    ∃ t, exec i s = .next t ∧ t.sha = s.sha ∧ t.zlib = s.zlib ∧
      if s.serves r.src.mt r.src.addr r.src.cbSrc = false then
        Failed s t ∧ t.aes = none ∧ SameBytes s t ∧ t.cbWrittenLast = 0 ∧ t.freeCount = s.freeCount
      else if Config.proxyFails s.freeCount call = true ∨ s.serves r.dst.mt r.dst.addr r.src.cbSrc = false then
        Failed s t ∧ t.aes = none ∧ SameBytes s t ∧ t.cbWrittenLast = 0 ∧ t.freeCount = s.freeCount + 1
      else
        Succeeded s t ∧ t.aes = s.aes ∧ SameOutside s t r.dst r.src.cbSrc ∧ t.freeCount = s.freeCount + 1 ∧
          t.cbWrittenLast = writtenAfter r.dst r.src.cbSrc ∧
          ∀ k, k < r.src.cbSrc → t.byteAt r.dst.mt (r.dst.addr + k) = Config.proxyByte s.freeCount call k

/-- Decryption inverts encryption of a block, for keys of both lengths (R315, R318, R319). -/
def Obligations.AesDecryptInvertsEncrypt : Prop :=
  ∀ key b : Bytes, (key.length = 16 ∨ key.length = 32) → b.length = 16 → aesDec key (aesEnc key b) = b

/-- Decrypting the encryption of a message of whole blocks with the same key gives the message, in both modes (R194, property
6; R191). -/
def Obligations.AesModesInvert : Prop :=
  ∀ (a : AesSession) (blocks : List Bytes), a.Wf → (∀ b ∈ blocks, b.length = 16) →
    (aesBlocks { a with dir := .dec }
      (pieces 16 blocks.length (aesBlocks { a with dir := .enc } blocks).1)).1 = blocks.flatten

/-! ## RSA (44_rsa.md) -/

/-- The modular power is the modular power (R207). -/
def Obligations.PowModIsModularPower : Prop := ∀ k b e n : Nat, e < 2 ^ k → powMod k b e n = b ^ e % n

/-- Both RSA commands complete when the message is below the modulus: the destination holds `m ^ e mod n`, little-endian, in
`size` bytes; nothing else changes (R206 to R210). The little-endian message is the spec's decision D23. -/
def Obligations.RsaWritesModularPower : Prop :=
  ∀ (s : State) (i : Instr) (size : Nat) (src : Source) (dst key : Place), rsaOf i = some (size, src, dst, key) →
    s.MemoryWf → s.serves key.mt key.addr size = true → 2 * size ≤ src.cbSrc →
    s.serves src.mt src.addr (2 * size) = true → s.serves dst.mt dst.addr size = true →
    le (s.bytesAt src.mt (src.addr + size) size) < le (s.bytesAt src.mt src.addr size) →
    ∃ t, exec i s = .next t ∧ Succeeded s t ∧ SameSessions s t ∧ t.freeCount = s.freeCount ∧
      SameOutside s t dst size ∧ t.cbWrittenLast = writtenAfter dst size ∧
      le (t.bytesAt dst.mt dst.addr size) =
        le (s.bytesAt src.mt (src.addr + size) size) ^ le (s.bytesAt key.mt key.addr size) %
          le (s.bytesAt src.mt src.addr size)

/-- An RSA command with a key or a source that is not served, with a source too short, or with a message not below the modulus
(the spec's decision D23) fails with nothing written. One whose destination is not served from the `k`-th byte down fails with
the `k` most significant bytes of the result written (R211, R64). -/
def Obligations.RsaFailuresLeaveWhatWasWritten : Prop :=
  ∀ (s : State) (i : Instr) (size : Nat) (src : Source) (dst key : Place) (r : Reply) (n m e : Nat),
    rsaOf i = some (size, src, dst, key) → s.phase = .draining r → n = le (s.bytesAt src.mt src.addr size) →
    m = le (s.bytesAt src.mt (src.addr + size) size) → e = le (s.bytesAt key.mt key.addr size) →
    (s.serves key.mt key.addr size = false ∨ src.cbSrc < 2 * size ∨ s.serves src.mt src.addr (2 * size) = false ∨ n ≤ m →
      ∃ t, exec i s = .next t ∧ Failed s t ∧ SameSessions s t ∧ SameBytes s t ∧ t.cbWrittenLast = 0 ∧
        t.freeCount = s.freeCount) ∧
    ∀ k, s.MemoryWf → s.serves key.mt key.addr size = true → 2 * size ≤ src.cbSrc →
      s.serves src.mt src.addr (2 * size) = true → m < n → k < size →
      s.serves dst.mt (dst.addr + size - k) k = true → s.serves dst.mt (dst.addr + size - k - 1) 1 = false →
      ∃ t, exec i s = .next t ∧ Failed s t ∧ SameSessions s t ∧ t.freeCount = s.freeCount ∧
        SameOutside s t ⟨dst.addr + size - k, dst.mt⟩ k ∧ t.cbWrittenLast = writtenAfter dst k ∧
        t.bytesAt dst.mt (dst.addr + size - k) k = (toLe (m ^ e % n) size).drop (size - k)

/-! ## ECC (45_ecc.md) -/

/-- `ecc.mulf` and `ecc.addf` complete: the product and the sum of the two operands modulo the P-384 prime, as a 72-byte
little-endian number; the operands lie where the configured block layout puts them (R216, R217, R219 to R221). -/
def Obligations.EccFieldOperationsCompute : Prop :=
  ∀ (s : State) (fl : MsgFlags) (src : Source) (dst : Place) (bits : Nat), s.MemoryWf → s.params.ecc.WF → bits ≤ 576 →
    s.serves dst.mt dst.addr 72 = true → eccOperand s src 0 = 2 ^ 384 - 2 ^ 128 - 2 ^ 96 + 2 ^ 32 - 1 →
    (∀ l, l = s.params.ecc.mulf → l.blen ≤ src.cbSrc → s.serves src.mt src.addr l.blen = true →
      ∃ t, exec (.eccMulf fl src dst bits) s = .next t ∧ Succeeded s t ∧ SameSessions s t ∧ t.freeCount = s.freeCount ∧
        SameOutside s t dst 72 ∧ t.cbWrittenLast = writtenAfter dst 72 ∧
        t.bytesAt dst.mt dst.addr 72 =
          toLe (eccOperand s src l.a * eccOperand s src l.b % (2 ^ 384 - 2 ^ 128 - 2 ^ 96 + 2 ^ 32 - 1)) 72) ∧
    ∀ l, l = s.params.ecc.addf → l.blen ≤ src.cbSrc → s.serves src.mt src.addr l.blen = true →
      ∃ t, exec (.eccAddf fl src dst bits) s = .next t ∧ Succeeded s t ∧ SameSessions s t ∧ t.freeCount = s.freeCount ∧
        SameOutside s t dst 72 ∧ t.cbWrittenLast = writtenAfter dst 72 ∧
        t.bytesAt dst.mt dst.addr 72 =
          toLe ((eccOperand s src l.a + eccOperand s src l.b) % (2 ^ 384 - 2 ^ 128 - 2 ^ 96 + 2 ^ 32 - 1)) 72

/-- `ecc.invf` completes on an operand that the prime does not divide, with `a ^ (p - 2) mod p`, and fails on the others with
nothing written (R222; the failure is the spec's decision D24). -/
def Obligations.EccInversionComputes : Prop :=
  ∀ (s : State) (fl : MsgFlags) (src : Source) (dst : Place) (bits : Nat) (r : Reply) (l : EccInvBlock), s.MemoryWf →
    s.params.ecc.WF → s.phase = .draining r → bits ≤ 576 → l = s.params.ecc.invf → l.blen ≤ src.cbSrc →
    s.serves src.mt src.addr l.blen = true →
    s.serves dst.mt dst.addr 72 = true → eccOperand s src 0 = p384Prime →
    ∃ t, exec (.eccInvf fl src dst bits) s = .next t ∧ SameSessions s t ∧ t.freeCount = s.freeCount ∧
      if eccOperand s src l.a % p384Prime = 0 then Failed s t ∧ SameBytes s t ∧ t.cbWrittenLast = 0
      else
        Succeeded s t ∧ SameOutside s t dst 72 ∧ t.cbWrittenLast = writtenAfter dst 72 ∧
          le (t.bytesAt dst.mt dst.addr 72) = eccOperand s src l.a ^ (p384Prime - 2) % p384Prime

/-- `ecc.mulc` completes on a point of the curve: X then Y of `k·P`, or for the point at infinity what `ECC_INFINITY` says; off
the curve it fails with nothing written (R223, R225, R226; the failure is the spec's decision D24). -/
def Obligations.EccScalarMultiplyComputes : Prop :=
  ∀ (s : State) (fl : MsgFlags) (src : Source) (dst : Place) (bits : Nat) (r : Reply) (l : EccMulBlock), s.MemoryWf →
    s.params.ecc.WF → s.phase = .draining r → bits ≤ 576 → l = s.params.ecc.mulc → l.blen ≤ src.cbSrc →
    s.serves src.mt src.addr l.blen = true →
    s.serves dst.mt dst.addr 144 = true → eccOperand s src 0 = p384Prime →
    ∃ t, exec (.eccMulc fl src dst bits) s = .next t ∧ SameSessions s t ∧ t.freeCount = s.freeCount ∧
      if onCurve (eccOperand s src l.x) (eccOperand s src l.y) = false then Failed s t ∧ SameBytes s t ∧ t.cbWrittenLast = 0
      else
        match eccScalarMul (eccOperand s src l.k) (eccOperand s src l.x) (eccOperand s src l.y), s.params.eccInfinity with
        | .infinity, .fault => Failed s t ∧ SameBytes s t ∧ t.cbWrittenLast = 0
        | .infinity, .zero =>
          Succeeded s t ∧ SameOutside s t dst 144 ∧ t.cbWrittenLast = writtenAfter dst 144 ∧
            t.bytesAt dst.mt dst.addr 144 = List.replicate 144 0
        | .affine x y, _ =>
          Succeeded s t ∧ SameOutside s t dst 144 ∧ t.cbWrittenLast = writtenAfter dst 144 ∧
            t.bytesAt dst.mt dst.addr 144 = toLe x 72 ++ toLe y 72

/-- `ecc.muladdc` completes on two points of the curve: X then Y of `k1·P1 + k2·P2`, or for the point at infinity what
`ECC_INFINITY` says; off the curve it fails with nothing written (R224 to R226; the failure is the spec's decision D24). -/
def Obligations.EccMultiplyAddComputes : Prop :=
  ∀ (s : State) (fl : MsgFlags) (src : Source) (dst : Place) (bits : Nat) (r : Reply) (l : EccMulAddBlock),
    s.MemoryWf → s.params.ecc.WF → s.phase = .draining r → bits ≤ 576 → l = s.params.ecc.muladdc →
    l.blen ≤ src.cbSrc → s.serves src.mt src.addr l.blen = true →
    s.serves dst.mt dst.addr 144 = true → eccOperand s src 0 = p384Prime →
    ∃ t, exec (.eccMuladdc fl src dst bits) s = .next t ∧ SameSessions s t ∧ t.freeCount = s.freeCount ∧
      if (onCurve (eccOperand s src l.x1) (eccOperand s src l.y1) && onCurve (eccOperand s src l.x2) (eccOperand s src l.y2)) = false then
        Failed s t ∧ SameBytes s t ∧ t.cbWrittenLast = 0
      else
        match pointAdd (eccScalarMul (eccOperand s src l.k1) (eccOperand s src l.x1) (eccOperand s src l.y1))
            (eccScalarMul (eccOperand s src l.k2) (eccOperand s src l.x2) (eccOperand s src l.y2)), s.params.eccInfinity with
        | .infinity, .fault => Failed s t ∧ SameBytes s t ∧ t.cbWrittenLast = 0
        | .infinity, .zero =>
          Succeeded s t ∧ SameOutside s t dst 144 ∧ t.cbWrittenLast = writtenAfter dst 144 ∧
            t.bytesAt dst.mt dst.addr 144 = List.replicate 144 0
        | .affine x y, _ =>
          Succeeded s t ∧ SameOutside s t dst 144 ∧ t.cbWrittenLast = writtenAfter dst 144 ∧
            t.bytesAt dst.mt dst.addr 144 = toLe x 72 ++ toLe y 72

/-- Scalar multiplication by small scalars is repeated addition, and does not depend on how many bits of the scalar are looked
at (R323). -/
def Obligations.ScalarMultiplicationIsRepeatedAddition : Prop :=
  (∀ f P, pointMul (f + 2) 0 P = .infinity ∧ pointMul (f + 2) 1 P = P ∧ pointMul (f + 2) 2 P = pointAdd P P ∧
    pointMul (f + 2) 3 P = pointAdd (pointAdd P P) P) ∧
  ∀ f g k P, k < 2 ^ f → k < 2 ^ g → pointMul f k P = pointMul g k P

/-- Every ECC command that fails writes nothing; `bits` above 576 leaves even `cbWrittenLast`, a source that is short or not
served, a prime other than P-384 and a destination that is not served clear it (R215, R218, R219, R228). -/
def Obligations.EccWritesAllOrNothing : Prop :=
  ∀ (s : State) (i : Instr) (blen rlen : Nat) (src : Source) (dst : Place) (bits : Nat) (r : Reply), s.params.ecc.WF →
    eccOf s.params.ecc i = some (blen, rlen, src, dst, bits) → s.phase = .draining r →
    ∃ t, exec i s = .next t ∧ SameSessions s t ∧ t.freeCount = s.freeCount ∧
      (Succeeded s t ∨ (Failed s t ∧ SameBytes s t)) ∧
      (576 < bits → Failed s t ∧ t.cbWrittenLast = s.cbWrittenLast) ∧
      (bits ≤ 576 →
        src.cbSrc < blen ∨ s.serves src.mt src.addr blen = false ∨ eccOperand s src 0 ≠ p384Prime ∨
          s.serves dst.mt dst.addr rlen = false →
        Failed s t ∧ t.cbWrittenLast = 0)

/-! ## ZLIB (46_zlib.md) -/

/-- More input never takes output back, and once the stream is complete or in error more input changes nothing (R244, R250,
R331). -/
def Obligations.InflateIsMonotone : Prop :=
  ∀ z w : Bytes, (inflate z).out <+: (inflate (z ++ w)).out ∧
    ((inflate z).status ≠ .needMore → inflate (z ++ w) = inflate z)

/-- `zlib.inflate` completes on input that is no decode error: the bytes that its input makes decodable are at the destination
in stream order and `cbWrittenLast` counts them for LOCAL; `eom` empties the session, else it holds the input so far
(R243 to R248). -/
def Obligations.InflateWritesDecodedBytes : Prop :=
  ∀ (s : State) (fl : MsgFlags) (src : Source) (dst : Place) (z : ZlibSession) (k : Nat), s.MemoryWf → s.ZlibWf →
    z = zlibStart fl.init s → (inflate z.zin).status = .needMore →
    s.serves src.mt src.addr src.cbSrc = true →
    (inflate (z.zin ++ s.bytesAt src.mt src.addr src.cbSrc)).status ≠ .error →
    k = (inflate (z.zin ++ s.bytesAt src.mt src.addr src.cbSrc)).out.length - z.zout →
    s.serves dst.mt dst.addr k = true → (src.cbSrc ≤ 4096 ∨ sourceDisjoint src dst k = true) →
    ∃ t, exec (.zlibInflate fl src dst) s = .next t ∧ Succeeded s t ∧ t.sha = s.sha ∧ t.aes = s.aes ∧
      t.freeCount = s.freeCount ∧ SameOutside s t dst k ∧ t.cbWrittenLast = writtenAfter dst k ∧
      t.bytesAt dst.mt dst.addr k = (inflate (z.zin ++ s.bytesAt src.mt src.addr src.cbSrc)).out.drop z.zout ∧
      (fl.eom = true → t.zlib = none) ∧
      (fl.eom = false → ∃ y, t.zlib = some y ∧ y.Wf ∧
        inflate y.zin = inflate (z.zin ++ s.bytesAt src.mt src.addr src.cbSrc) ∧
        (src.cbSrc ≤ 4096 → y.zin = z.zin ++ s.bytesAt src.mt src.addr src.cbSrc))

/-- `zlib.inflate` on a complete stream completes: it reads nothing and writes nothing, whatever its operands (R250). -/
def Obligations.InflateIgnoresInputAfterTheEnd : Prop :=
  ∀ (s : State) (fl : MsgFlags) (src : Source) (dst : Place) (z : ZlibSession), z = zlibStart fl.init s →
    (inflate z.zin).status = .done →
    ∃ t, exec (.zlibInflate fl src dst) s = .next t ∧ Succeeded s t ∧ t.sha = s.sha ∧ t.aes = s.aes ∧
      t.freeCount = s.freeCount ∧ SameBytes s t ∧ t.cbWrittenLast = 0 ∧ t.zlib = if fl.eom then none else some z

/-- Where `zlib.inflate` fails; each time the full 4096-byte buffers before the failure stay written, `cbWrittenLast` counts
them, and the session is emptied (R245, R249). On a decode error, in any piece of the input, the partly filled buffer is
dropped (the spec's decision D25); so it is when the source piece at `p = 4096 * j` is not served; and when the destination of
the buffer at `k = 4096 * j` of the output is not served, exactly the buffers before it are written. -/
def Obligations.InflateErrorDropsTheBuffer : Prop :=
  ∀ (s : State) (fl : MsgFlags) (src : Source) (dst : Place) (z : ZlibSession) (j k : Nat) (r : Reply), s.MemoryWf →
    s.phase = .draining r → s.ZlibWf → z = zlibStart fl.init s → (inflate z.zin).status = .needMore →
    s.serves dst.mt dst.addr k = true →
    (∀ o, o = inflate (z.zin ++ s.bytesAt src.mt src.addr src.cbSrc) → s.serves src.mt src.addr src.cbSrc = true →
      (o.status = .error ∧ k = (o.out.length - z.zout) / 4096 * 4096 ∨
        (o.status ≠ .error ∨ k + 4096 ≤ o.out.length - z.zout) ∧ k = 4096 * j ∧ k < o.out.length - z.zout ∧
          s.serves dst.mt (dst.addr + k) (min 4096 (o.out.length - z.zout - k)) = false) →
      (src.cbSrc ≤ 4096 ∨ sourceDisjoint src dst k = true) →
      ∃ t, exec (.zlibInflate fl src dst) s = .next t ∧ Failed s t ∧ t.zlib = none ∧ t.sha = s.sha ∧ t.aes = s.aes ∧
        t.freeCount = s.freeCount ∧ SameOutside s t dst k ∧ t.cbWrittenLast = writtenAfter dst k ∧
        t.bytesAt dst.mt dst.addr k = (o.out.drop z.zout).take k) ∧
    ∀ p o, p = 4096 * j → p < src.cbSrc → s.serves src.mt src.addr p = true →
      s.serves src.mt (src.addr + p) (min 4096 (src.cbSrc - p)) = false →
      o = inflate (z.zin ++ s.bytesAt src.mt src.addr p) → o.status = .needMore →
      k = (o.out.length - z.zout) / 4096 * 4096 →
      (p ≤ 4096 ∨ sourceDisjoint { src with cbSrc := p } dst k = true) →
      ∃ t, exec (.zlibInflate fl src dst) s = .next t ∧ Failed s t ∧ t.zlib = none ∧ t.sha = s.sha ∧ t.aes = s.aes ∧
        t.freeCount = s.freeCount ∧ SameOutside s t dst k ∧ t.cbWrittenLast = writtenAfter dst k ∧
        t.bytesAt dst.mt dst.addr k = (o.out.drop z.zout).take k

/-! ## All commands -/

/-- Every command ends in a next state: it succeeds, or it takes the error path, with exactly the register effects of R258 or
of R259 and R260; no command stops the machine (R350, R367). -/
def Obligations.EveryCommandSucceedsOrFails : Prop :=
  ∀ (i : Instr) (s : State) (r : Reply), s.phase = .draining r →
    ∃ t, exec i s = .next t ∧ (Succeeded s t ∨ Failed s t)

/-- A command touches no session but its own engine's, and a failing SHA, AES or ZLIB command leaves its own session empty
(R146; which sessions are freed is the spec's decision D27). -/
def Obligations.CommandsKeepForeignSessions : Prop :=
  ∀ (i : Instr) (s t : State) (r : Reply), s.phase = .draining r → exec i s = .next t →
    (if shaOf i = none then t.sha = s.sha else t.phase = .idle → t.sha = none) ∧
    (if aesOf i = none then t.aes = s.aes else t.phase = .idle → t.aes = none) ∧
    (if isZlib i = false then t.zlib = s.zlib else t.phase = .idle → t.zlib = none)

/-! ## The queue controller (47_queue_controller.md, 60_exceptions.md) -/

/-- One step of a drain with a descriptor queued fetches the 32 bytes at `head` and runs the command they encode; nothing is
added around it (R257, R255; 40_dispatch.md R142). -/
def Obligations.StepRunsTheDecodedCommand : Prop :=
  ∀ (s : State) (r : Reply) (i : Instr), s.phase = .draining r → (s.queue s.cur).head ≠ (s.queue s.cur).tail →
    s.serves .localMem (s.queue s.cur).head.toNat 32 = true →
    decodeWith s.params.encoding (s.bytesAt .localMem (s.queue s.cur).head.toNat 32) = .ok i → step s = exec i s

/-- An illegal descriptor and a failed fetch take the error path with no other effect: the queue stops, `head` stays, no
memory, session or counter changes (R143, R257, R259). -/
def Obligations.BadDescriptorsStopTheQueue : Prop :=
  ∀ (s : State) (r : Reply), s.phase = .draining r → (s.queue s.cur).head ≠ (s.queue s.cur).tail →
    (s.serves .localMem (s.queue s.cur).head.toNat 32 = false ∨
      ∃ e, decodeWith s.params.encoding (s.bytesAt .localMem (s.queue s.cur).head.toNat 32) = .error e) →
    ∃ t, step s = .next t ∧ Failed s t ∧ SameSessions s t ∧ SameBytes s t ∧ t.cbWrittenLast = s.cbWrittenLast ∧
      t.freeCount = s.freeCount

/-- When the loop exits with `head = tail`, HALT, Q_STOP and Q_EMPTY are set, the access answers the register as it stands
after the drain, and nothing else changes (R260, R280, R293). -/
def Obligations.EmptyQueueStopsTheDrain : Prop :=
  ∀ (s : State) (r : Reply), s.phase = .draining r → (s.queue s.cur).head = (s.queue s.cur).tail →
    ∃ u, u = s.setQueue s.cur
        { s.queue s.cur with
          control := (s.queue s.cur).control ||| bitMask s.params.bits.halt
          ists := (s.queue s.cur).ists ||| bitMask s.params.bits.qStop ||| bitMask s.params.bits.qEmpty } ∧
      step s = .next
        { answered u s.pending (match r with | .write => .none | .read x => .word ((u.queue s.cur).readReg x)) with
          phase := .idle }

/-- Taking an error of any kind: status ERROR, the ERROR bit, HALT and Q_STOP, `head` left at the failing command, the access
ended; the kind is recorded nowhere and no memory or session is touched by the entry itself (R259, R260, R352, R367). -/
def Obligations.TakingAnErrorStopsTheQueue : Prop :=
  ∀ (s : State) (k : ErrKind) (r : Reply), s.phase = .draining r →
    Failed s (takeError k s) ∧ SameSessions s (takeError k s) ∧ SameBytes s (takeError k s) ∧
      (takeError k s).cbWrittenLast = s.cbWrittenLast ∧ (takeError k s).freeCount = s.freeCount ∧
      ∀ k', takeError k' s = takeError k s

/-- A drain whose `tail` is `k` descriptors ahead and none of whose commands fails runs exactly `k` commands in order, then stops
with HALT set and the queue empty (property 10, R265); all of it lies inside the one access that `access` runs (R267). -/
def Obligations.DrainRunsTheQueuedCommandsInOrder : Prop :=
  ∀ (s : State) (r : Reply) (k : Nat) (b : QueueBits), s.phase = .draining r → b = s.params.bits → k < 2 ^ 27 →
    (s.queue s.cur).tail = (s.queue s.cur).head + BitVec.ofNat 32 (32 * k) →
    (∀ j, j ≤ k → ∃ u : State, Host.Core.run core j s = .next u ∧ u.phase = .draining r) →
    (∀ j, j ≤ k → ∃ u : State, Host.Core.run core j s = .next u ∧
        (u.queue s.cur).head = (s.queue s.cur).head + BitVec.ofNat 32 (32 * j) ∧
        (u.queue s.cur).tail = (s.queue s.cur).tail) ∧
      ∃ t : State, Host.Core.run core (k + 1) s = .next t ∧ access s = some t ∧ t.phase = .idle ∧
        (t.queue s.cur).head = (t.queue s.cur).tail ∧ (t.queue s.cur).control &&& bitMask b.halt = bitMask b.halt ∧
        (t.queue s.cur).ists &&& bitMask b.qStop = bitMask b.qStop ∧
        (t.queue s.cur).ists &&& bitMask b.qEmpty = bitMask b.qEmpty ∧
        (1 ≤ k → (t.queue s.cur).ists &&& bitMask b.completion = bitMask b.completion ∧ (t.queue s.cur).status = 0)

/-- A step of a drain leaves the other queue, its own queue's `tail`, `ien` and `enabled`, the parameters and the host's coming
actions as they are (R264, R266, R267, R268). -/
def Obligations.DrainKeepsWhatOnlyFirmwareWrites : Prop :=
  ∀ (s t : State) (r : Reply), s.phase = .draining r → step s = .next t →
    Untouched s t ∧ (t.queue s.cur).tail = (s.queue s.cur).tail ∧ (t.queue s.cur).ien = (s.queue s.cur).ien ∧
      (t.queue s.cur).enabled = (s.queue s.cur).enabled

/-! ## The register file (48_mmio.md) -/

/-- A write to `control` stores every bit but RUN, copies RUN into `enabled`, and never begins a drain (R282). -/
def Obligations.ControlWriteNeverDrains : Prop :=
  ∀ (s : State) (q : QId) (v : Nat) (rest : List HostEvent), s.phase = .idle → s.params.regs.WF →
    s.pending = .primaryWrite (primaryOffset s.params.regs q .control) 32 v :: rest →
    step s = .next
      (answered
        (s.setQueue q
          { s.queue q with
            control := BitVec.ofNat 32 v &&& ~~~bitMask s.params.bits.run
            enabled := (BitVec.ofNat 32 v).getLsbD s.params.bits.run }) rest .none)

/-- A write to `tail`, `head` or `status` stores the word (R283, R284, R285). It begins a drain only under
`any_write_ien_nonzero`, with an interrupt enabled, on an enabled queue (R290): the spec's decision D10, log 12. -/
def Obligations.PlainWritesStoreTheWord : Prop :=
  ∀ (s : State) (q : QId) (x : QReg) (v : Nat) (rest : List HostEvent) (u : State), s.phase = .idle → s.params.regs.WF →
    s.pending = .primaryWrite (primaryOffset s.params.regs q x) 32 v :: rest →
    (x = .tail ∧ u = s.setQueue q { s.queue q with tail := BitVec.ofNat 32 v } ∨
      x = .head ∧ u = s.setQueue q { s.queue q with head := BitVec.ofNat 32 v } ∨
      x = .status ∧ u = s.setQueue q { s.queue q with status := BitVec.ofNat 32 v }) →
    step s = .next
      (if s.params.drainOnWrite = .anyWriteIenNonzero ∧ (s.queue q).ien ≠ 0 ∧ (s.queue q).enabled = true then
        drainBegun u rest q .write
      else answered u rest .none)

/-- A write to `ien` stores all 32 bits and begins a drain exactly when the word is not 0 and the queue is enabled, under both
values of `DRAIN_ON_WRITE` (R286, R290; the spec's decision D10, log 12). -/
def Obligations.IenWriteTriggersWhenNonzero : Prop :=
  ∀ (s : State) (q : QId) (v : Nat) (rest : List HostEvent) (u : State), s.phase = .idle → s.params.regs.WF →
    s.pending = .primaryWrite (primaryOffset s.params.regs q .ien) 32 v :: rest →
    u = s.setQueue q { s.queue q with ien := BitVec.ofNat 32 v } →
    step s = .next
      (if BitVec.ofNat 32 v ≠ 0 ∧ (s.queue q).enabled = true then drainBegun u rest q .write else answered u rest .none)

/-- A write to `ists` clears the bits written as 1 and keeps the others (R288). It begins a drain only under
`any_write_ien_nonzero`, with an interrupt enabled, on an enabled queue (R290): the spec's decision D10, log 12. -/
def Obligations.IstsWriteClearsBits : Prop :=
  ∀ (s : State) (q : QId) (v : Nat) (rest : List HostEvent) (u : State), s.phase = .idle → s.params.regs.WF →
    s.pending = .primaryWrite (primaryOffset s.params.regs q .ists) 32 v :: rest →
    u = s.setQueue q { s.queue q with ists := (s.queue q).ists &&& ~~~(BitVec.ofNat 32 v) } →
    step s = .next
      (if s.params.drainOnWrite = .anyWriteIenNonzero ∧ (s.queue q).ien ≠ 0 ∧ (s.queue q).enabled = true then
        drainBegun u rest q .write
      else answered u rest .none)

/-- A read of a queue register begins a drain of that queue if it is enabled, else it answers the stored word and changes nothing
(R280, R281, R290). -/
def Obligations.RegisterReadTriggersDrain : Prop :=
  ∀ (s : State) (q : QId) (x : QReg) (rest : List HostEvent), s.phase = .idle → s.params.regs.WF →
    s.pending = .primaryRead (primaryOffset s.params.regs q x) 32 :: rest →
    step s = .next
      (if (s.queue q).enabled = true then drainBegun s rest q (.read x)
      else
        answered s rest (.word
          (match x with
          | .control => (s.queue q).control
          | .tail => (s.queue q).tail
          | .head => (s.queue q).head
          | .ien => (s.queue q).ien
          | .ists => (s.queue q).ists
          | .status => (s.queue q).status)))

/-- Global offsets read 0 and ignore writes; neither changes any state (R278). -/
def Obligations.GlobalRegistersReadZero : Prop :=
  ∀ (s : State) (off v : Nat) (rest : List HostEvent), s.phase = .idle → off < s.params.regs.qBase →
    (s.pending = .primaryRead off 32 :: rest → step s = .next (answered s rest (.word 0))) ∧
      (s.pending = .primaryWrite off 32 v :: rest → step s = .next (answered s rest .none))

/-- Offsets that are no register (within a block, not a multiple of 4, or beyond the second block) read 0 and ignore writes (R287,
the spec's decision D12). -/
def Obligations.UndefinedOffsetsReadZero : Prop :=
  ∀ (s : State) (off v : Nat) (rest : List HostEvent) (m : RegMap), s.phase = .idle → m = s.params.regs → m.WF →
    m.qBase ≤ off → (m.qBase + 2 * m.qStride ≤ off ∨ off % 4 ≠ 0 ∨ (off - m.qBase) % m.qStride ∉ m.offsets) →
    (s.pending = .primaryRead off 32 :: rest → step s = .next (answered s rest (.word 0))) ∧
      (s.pending = .primaryWrite off 32 v :: rest → step s = .next (answered s rest .none))

/-- A write to the secondary region is ignored whatever its width (R303). An access to the primary region, and a read of the
secondary one, of another width than 32 stores nothing and begins no drain; a rejected read answers some value of its width, a
free value of the model (R277, R303; log 7). -/
def Obligations.OtherWidthsAreRejected : Prop :=
  ∀ (s : State) (off width v : Nat) (rest : List HostEvent), s.phase = .idle →
    (s.pending = .secondaryWrite off width v :: rest → step s = .next (answered s rest .none)) ∧
    (width ≠ 32 → s.pending = .primaryWrite off width v :: rest → step s = .next (answered s rest .none)) ∧
    (width ≠ 32 → s.pending = .primaryRead off width :: rest ∨ s.pending = .secondaryRead off width :: rest →
      ∃ a, a < 2 ^ width ∧
        step s = .next { answered s rest (.rejected a) with freeCount := s.freeCount + 1 })

/-- Secondary offset 0x28 reads `cbWrittenLast`, 0x38 reads 1, every other offset 0, and nothing changes (R300, R301, R302). -/
def Obligations.SecondaryRegionReads : Prop :=
  ∀ (s : State) (off : Nat) (rest : List HostEvent), s.phase = .idle → s.pending = .secondaryRead off 32 :: rest →
    step s = .next
      (answered s rest (.word (if off = 0x28 then s.cbWrittenLast else if off = 0x38 then 0x00000001 else 0)))

/-- No host access changes the LSB, a session or `cbWrittenLast`, and none but the host's own store changes LOCAL memory: the
LSB is in neither region, and nothing runs before a drain (R11, R292, R303). -/
def Obligations.HostAccessesMoveNoData : Prop :=
  ∀ s t : State, s.phase = .idle → step s = .next t →
    t.lsb = s.lsb ∧ SameSessions s t ∧ t.cbWrittenLast = s.cbWrittenLast ∧ t.params = s.params ∧
      ((∀ a v rest, s.pending ≠ .localStore a v :: rest) → t.localMem = s.localMem)

/-- With no host action to come the device does nothing by itself (R267). -/
def Obligations.IdleDeviceDoesNothing : Prop := ∀ s : State, s.phase = .idle → s.pending = [] → step s = .next s

/-- An interrupt status bit that is set stays set over every step but a write to `ists` (R363). -/
def Obligations.OnlyFirmwareClearsInterrupts : Prop :=
  ∀ (s t : State) (q : QId), step s = .next t →
    (s.phase = .idle → ∀ v rest, s.pending ≠ .primaryWrite (primaryOffset s.params.regs q .ists) 32 v :: rest) →
    (s.queue q).ists &&& ~~~(t.queue q).ists = 0

/-- Whenever a step ends an access, the interrupt line has the level of R364 and `irq.set` is called with it (R293, property
11; the OR over the queues is the spec's decision D28). A whole access, run by `access` from the host's action to its answer,
answers once, leaves the line at its level, and takes no other action of the host (R267). -/
def Obligations.LineFollowsEveryAccess : Prop :=
  (∀ s t : State, step s = .next t → t.responses ≠ s.responses →
    ∃ d, t.phase = .idle ∧ t.irqLine = lineLevel t ∧
      t.responses = { data := d, irq := { prio := 0, devId := 0x15, level := lineLevel t } } :: s.responses) ∧
  ∀ (s t : State) (e : HostEvent) (rest : List HostEvent), s.phase = .idle → s.pending = e :: rest → e.isMmio = true →
    access s = some t →
    ∃ d, t.phase = .idle ∧ t.pending = rest ∧ t.irqLine = lineLevel t ∧
      t.responses = { data := d, irq := { prio := 0, devId := 0x15, level := lineLevel t } } :: s.responses

/-! ## The whole machine -/

/-- Every step keeps the invariant: canonical memories, RUN read as 0, reserved interrupt bits 0, the interrupt line at its level
between accesses, a draining queue enabled, sessions of their shapes (10_state.md R27 and R10 to R24). -/
def Obligations.StepKeepsTheInvariant : Prop := ∀ s t : State, s.Inv → step s = .next t → t.Inv

/-- The state after reset has the invariant, and so has the start of a run with every other configuration and every contents of
the two memories (R28, R5: `LSB_INIT` and `LOCAL_INIT` are open). -/
def Obligations.ResetHasTheInvariant : Prop :=
  State.reset.Inv ∧
    ∀ (p : Params) (lsbInit localInit : Memory), p.WF → lsbInit.wf 4096 = true → localInit.wf (2 ^ 48) = true →
      (State.start p lsbInit localInit).Inv

/-- The state after reset: both queues halted and empty, no session, the line low (R28, the spec's decision D9). The LSB and
LOCAL contents are not in this statement: the spec leaves them open (logs 3, 4). -/
def Obligations.ResetValues : Prop :=
  (∀ q, State.reset.queue q =
    { control := 0x00000002, head := 0, tail := 0, status := 0, ien := 0, ists := 0, enabled := false }) ∧
  State.reset.sha = none ∧ State.reset.aes = none ∧ State.reset.zlib = none ∧ State.reset.cbWrittenLast = 0 ∧
  State.reset.irqLine = false

/-- A descriptor placed by `withFetchWord` is the command the next step runs (the model's own operation, log 2). -/
def Obligations.PlacedWordIsRunNext : Prop :=
  ∀ (s : State) (n w : Nat) (i : Instr), s.MemoryWf →
    (decodeWith s.params.encoding (toLe (w % 2 ^ n) 32) = .ok i ∨
      s.params.encoding = Encoding.default ∧ decodeTableWord n w = some i) →
    step (s.withFetchWord n w) = exec i (s.withFetchWord n w)
end

