-- ==== Sys2Proof/Laws/Encoding.lean ====
section
/-! SUPPORT. Packed fields read back, the fields of an encoded descriptor, and the default configuration is well-formed. -/

namespace Sys2Proof.Machine

/-! ## Packed fields -/

theorem testBit_field (w lo n i : Nat) : (field w lo n).testBit i = (decide (i < n) && w.testBit (lo + i)) := by
  rw [field, Nat.testBit_mod_two_pow, Nat.testBit_div_two_pow, Nat.add_comm]

theorem getField_or (a c : Nat) (b : BitField) : getField (a ||| c) b = getField a b ||| getField c b := by
  apply Nat.eq_of_testBit_eq
  intro i
  simp only [getField, testBit_field, Nat.testBit_or, Bool.and_or_distrib_left]

/-- A value that fits its field is read back from it. -/
theorem getField_shift_self {v : Nat} {b : BitField} (h : v < 2 ^ b.width) : getField (v <<< b.lo) b = v := by
  rw [getField, field, Nat.shiftLeft_eq, Nat.mul_div_cancel _ (Nat.two_pow_pos _), Nat.mod_eq_of_lt h]

/-- A field apart from another reads 0 where only the other is set. -/
theorem getField_shift_apart {v : Nat} {b c : BitField} (h : v < 2 ^ b.width) (hd : apart b c) : getField (v <<< b.lo) c = 0 := by
  apply Nat.eq_of_testBit_eq
  intro i
  rw [getField, testBit_field, Nat.testBit_shiftLeft, Nat.zero_testBit]
  by_cases hi : i < c.width
  · by_cases hb : b.lo ≤ c.lo + i
    · have hle : b.width ≤ c.lo + i - b.lo := by rcases hd with hd | hd <;> omega
      rw [Nat.testBit_lt_two_pow (Nat.lt_of_lt_of_le h (Nat.pow_le_pow_right (by omega) hle))]
      simp
    · simp [hb]
  · simp [hi]

/-- A field apart from all the packed ones reads 0. -/
theorem getField_pack_apart {l : List (BitField × Nat)} {c : BitField} (hv : ∀ p ∈ l, p.2 < 2 ^ p.1.width)
    (hd : ∀ p ∈ l, apart p.1 c) : getField (pack l) c = 0 := by
  induction l with
  | nil => simp [pack, getField, field]
  | cons p t ih =>
    rw [pack, getField_or, getField_shift_apart (hv p (by simp)) (hd p (by simp)),
      ih (fun q hq => hv q (by simp [hq])) (fun q hq => hd q (by simp [hq])), Nat.or_zero]

/-- Every packed value is read back from its field, the fields being apart. -/
theorem getField_pack {l : List (BitField × Nat)} (hv : ∀ p ∈ l, p.2 < 2 ^ p.1.width)
    (hd : (l.map Prod.fst).Pairwise apart) {p : BitField × Nat} (hp : p ∈ l) : getField (pack l) p.1 = p.2 := by
  induction l with
  | nil => cases hp
  | cons q t ih =>
    rw [List.map_cons, List.pairwise_cons] at hd
    rw [pack, getField_or]
    rcases List.mem_cons.1 hp with rfl | ht
    · rw [getField_shift_self (hv p (by simp)), getField_pack_apart (fun r hr => hv r (by simp [hr]))
        (fun r hr => (hd.1 r.1 (List.mem_map_of_mem hr)).symm), Nat.or_zero]
    · rw [getField_shift_apart (hv q (by simp)) (hd.1 p.1 (List.mem_map_of_mem ht)),
        ih (fun r hr => hv r (by simp [hr])) hd.2 ht, Nat.zero_or]

/-- Packed fields of a word of `n` bits make a word of `n` bits. -/
theorem pack_lt {n : Nat} {l : List (BitField × Nat)} (hv : ∀ p ∈ l, p.2 < 2 ^ p.1.width)
    (hn : ∀ b ∈ l.map Prod.fst, b.lo + b.width ≤ n) : pack l < 2 ^ n := by
  induction l with
  | nil => exact Nat.two_pow_pos n
  | cons p t ih =>
    refine Nat.or_lt_two_pow ?_ (ih (fun q hq => hv q (by simp [hq])) (fun b hb => hn b (by simp at hb ⊢; exact .inr hb)))
    rw [Nat.shiftLeft_eq]
    calc p.2 * 2 ^ p.1.lo < 2 ^ p.1.width * 2 ^ p.1.lo := Nat.mul_lt_mul_of_pos_right (hv p (by simp)) (Nat.two_pow_pos _)
      _ = 2 ^ (p.1.lo + p.1.width) := by rw [← Nat.pow_add, Nat.add_comm]
      _ ≤ 2 ^ n := Nat.pow_le_pow_right (by omega) (hn p.1 (by simp))

end Sys2Proof.Machine

namespace Sys2Proof.Laws

open Sys2Proof Sys2Proof.Machine

/-! ## The bytes of an encoded descriptor -/

theorem length_toLe (v n : Nat) : (toLe v n).length = n := by
  induction n generalizing v with
  | zero => rfl
  | succ n ih => simp [toLe, ih]

theorem le_toLe (v n : Nat) : le (toLe v n) = v % 256 ^ n := by
  induction n generalizing v with
  | zero => simp [toLe, le, Nat.mod_one]
  | succ n ih =>
    simp only [toLe, le, ih, BitVec.toNat_ofNat]
    rw [show v % 256 % 2 ^ 8 = v % 256 by omega, Nat.pow_succ', Nat.mod_mul]

theorem length_encodePlace (c : Encoding) (x : Place) : (encodePlace c x).length = 8 := by
  simp only [encodePlace, List.length_append, length_toLe]

theorem length_encodeNoKey : encodeNoKey.length = 8 := length_toLe 0 8

theorem length_encodeShaBits (n : Nat) : (encodeShaBits n).length = 8 := by
  simp only [encodeShaBits, List.length_append, length_toLe]

theorem length_encodeSource (c : Encoding) (x : Source) : (encodeSource c x).length = 12 := by
  simp only [encodeSource, List.length_append, length_toLe]

theorem length_encodeDesc (c : Encoding) (i : Instr) (src : Source) {dst key : Bytes} (hd : dst.length = 8)
    (hk : key.length = 8) : (encodeDesc c i src dst key).length = 32 := by
  simp only [encodeDesc, List.length_append, length_toLe, length_encodeSource, hd, hk]

theorem descWord_zero_append (v : Nat) (l : Bytes) : descWord (toLe v 4 ++ l) 0 = v % 256 ^ 4 := by
  rw [descWord, slice, Nat.mul_zero, List.drop_zero, List.take_append_of_le_length (by rw [length_toLe]),
    List.take_of_length_le (by rw [length_toLe]), le_toLe]

/-- The first word of an encoded descriptor is the command's `dw0`. -/
theorem descWord_encodeDesc (c : Encoding) (i : Instr) (src : Source) (dst key : Bytes) :
    descWord (encodeDesc c i src dst key) 0 = i.dw0 c % 256 ^ 4 := by
  simp only [encodeDesc, List.append_assoc, descWord_zero_append]

/-! ## The default configuration -/

theorem default_encoding_wf : Encoding.default.WF := by constructor <;> decide

theorem default_regs_wf : RegMap.default.WF := by constructor <;> decide

theorem default_bits_wf : QueueBits.default.WF := by constructor <;> decide

theorem default_ecc_wf : EccLayout.default.WF := by constructor <;> decide

/-- The spec's defaults are a configuration as R5 asks for. -/
theorem default_params_wf : Params.default.WF where
  encoding := default_encoding_wf
  regs := default_regs_wf
  bits := default_bits_wf
  ecc := default_ecc_wf
  statusError := by decide

end Sys2Proof.Laws
end

