-- ==== Sys2Proof/Laws/Memory.lean ====
section
/-! SUPPORT. The laws of the byte memory: a write is read back, leaves every other byte, and keeps the canonical form; equal
contents are equal memories. -/

namespace Sys2Proof.Machine

/-! ## The list of cells -/

theorem Memory.cellsWf_mono {hi lo lo' : Nat} {l : List Host.Cell} (h : Memory.cellsWf hi lo l = true) (hl : lo' ≤ lo) :
    Memory.cellsWf hi lo' l = true := by
  cases l with
  | nil => rfl
  | cons c t =>
    obtain ⟨a, b⟩ := c
    simp only [Memory.cellsWf, Bool.and_eq_true, decide_eq_true_eq] at h ⊢
    exact ⟨⟨⟨by omega, h.1.1.2⟩, h.1.2⟩, h.2⟩

/-- Below the lowest listed address every byte is the blank one. -/
theorem Memory.cellAt_below {hi lo x : Nat} {l : List Host.Cell} (h : Memory.cellsWf hi lo l = true) (hx : x < lo) :
    Memory.cellAt l x = Memory.blank := by
  induction l generalizing lo with
  | nil => rfl
  | cons c t ih =>
    obtain ⟨a, b⟩ := c
    simp only [Memory.cellsWf, Bool.and_eq_true, decide_eq_true_eq] at h
    rw [Memory.cellAt, if_neg (by omega)]
    exact ih h.2 (by omega)

/-- A stored byte is read back, every other byte stays. -/
theorem Memory.cellAt_putCell {hi lo x y : Nat} {l : List Host.Cell} (v : Byte) (h : Memory.cellsWf hi lo l = true) :
    Memory.cellAt (Memory.putCell l x v) y = if y = x then v else Memory.cellAt l y := by
  induction l generalizing lo with
  | nil =>
    by_cases hv : v = Memory.blank
    · simp [Memory.putCell, Memory.cellAt, hv]
    · simp only [Memory.putCell, hv, if_false, Memory.cellAt, eq_comm]
  | cons c t ih =>
    obtain ⟨a, b⟩ := c
    simp only [Memory.cellsWf, Bool.and_eq_true, decide_eq_true_eq] at h
    simp only [Memory.putCell]
    split
    · have hx : Memory.cellAt ((a, b) :: t) x = Memory.blank := by
        rw [Memory.cellAt, if_neg (by omega)]
        exact Memory.cellAt_below h.2 (by omega)
      split
      · split <;> simp_all
      · simp only [Memory.cellAt, eq_comm]
    · split
      · subst x
        have ha : Memory.cellAt t a = Memory.blank := Memory.cellAt_below h.2 (by omega)
        split
        · by_cases hy : y = a
          · simp_all
          · simp [Memory.cellAt, hy, Ne.symm hy]
        · by_cases hy : y = a
          · simp [Memory.cellAt, hy]
          · simp [Memory.cellAt, hy, Ne.symm hy]
      · rw [Memory.cellAt, ih h.2, Memory.cellAt]
        by_cases hy : a = y
        · subst y
          simp [Ne.symm ‹¬x = a›]
        · simp [hy]

theorem Memory.cellsWf_putCell {hi lo x : Nat} {l : List Host.Cell} (v : Byte) (h : Memory.cellsWf hi lo l = true)
    (hlo : lo ≤ x) (hhi : x < hi) : Memory.cellsWf hi lo (Memory.putCell l x v) = true := by
  induction l generalizing lo with
  | nil =>
    simp only [Memory.putCell]
    split <;> simp_all [Memory.cellsWf]
  | cons c t ih =>
    obtain ⟨a, b⟩ := c
    have h0 := h
    simp only [Memory.cellsWf, Bool.and_eq_true, decide_eq_true_eq] at h
    simp only [Memory.putCell]
    split
    · split
      · exact h0
      · simp only [Memory.cellsWf, Bool.and_eq_true, decide_eq_true_eq]
        exact ⟨⟨⟨hlo, hhi⟩, ‹_›⟩, ⟨⟨by omega, h.1.1.2⟩, h.1.2⟩, h.2⟩
    · split
      · split
        · exact Memory.cellsWf_mono h.2 (by omega)
        · simp only [Memory.cellsWf, Bool.and_eq_true, decide_eq_true_eq]
          exact ⟨⟨⟨h.1.1.1, h.1.1.2⟩, ‹_›⟩, h.2⟩
      · simp only [Memory.cellsWf, Bool.and_eq_true, decide_eq_true_eq]
        exact ⟨h.1, ih h.2 (by omega)⟩

/-- Two canonical lists with the same bytes are one list. -/
theorem Memory.cellsWf_ext {hi lo : Nat} {l m : List Host.Cell} (hl : Memory.cellsWf hi lo l = true)
    (hm : Memory.cellsWf hi lo m = true) (h : ∀ x, Memory.cellAt l x = Memory.cellAt m x) : l = m := by
  induction l generalizing lo m with
  | nil =>
    cases m with
    | nil => rfl
    | cons c t =>
      obtain ⟨a, b⟩ := c
      simp only [Memory.cellsWf, Bool.and_eq_true, decide_eq_true_eq] at hm
      have := h a
      simp only [Memory.cellAt, if_true] at this
      exact absurd this.symm hm.1.2
  | cons c t ih =>
    obtain ⟨a, b⟩ := c
    have hl' := hl
    simp only [Memory.cellsWf, Bool.and_eq_true, decide_eq_true_eq] at hl
    cases m with
    | nil =>
      have := h a
      simp only [Memory.cellAt, if_true] at this
      exact absurd this hl.1.2
    | cons c' t' =>
      obtain ⟨a', b'⟩ := c'
      have hm' := hm
      simp only [Memory.cellsWf, Bool.and_eq_true, decide_eq_true_eq] at hm
      have key : a = a' := by
        rcases Nat.lt_trichotomy a a' with hlt | heq | hgt
        · have := h a
          rw [Memory.cellAt, if_pos rfl, Memory.cellAt, if_neg (by omega),
            Memory.cellAt_below hm.2 (by omega)] at this
          exact absurd this hl.1.2
        · exact heq
        · have := h a'
          rw [Memory.cellAt, if_neg (by omega), Memory.cellAt_below hl.2 (by omega), Memory.cellAt,
            if_pos rfl] at this
          exact absurd this.symm hm.1.2
      subst a'
      have hb : b = b' := by simpa [Memory.cellAt] using h a
      subst b'
      rw [ih hl.2 hm.2]
      intro x
      by_cases hx : x ≤ a
      · rw [Memory.cellAt_below hl.2 (by omega), Memory.cellAt_below hm.2 (by omega)]
      · simpa [Memory.cellAt, show ¬a = x by omega] using h x

/-! ## Bytes and byte strings -/

theorem Memory.read_write {size : Nat} {m : Memory} (hm : m.wf size = true) (x y : Nat) (v : Byte) :
    (m.write x v).read y = if y = x then v else m.read y :=
  Memory.cellAt_putCell v hm

theorem Memory.wf_write {size x : Nat} {m : Memory} (hm : m.wf size = true) (hx : x < size) (v : Byte) :
    (m.write x v).wf size = true :=
  Memory.cellsWf_putCell v hm (Nat.zero_le x) hx

/-- Memories of the same contents are equal. -/
theorem Memory.ext_of_wf {size : Nat} {m k : Memory} (hm : m.wf size = true) (hk : k.wf size = true)
    (h : ∀ x, m.read x = k.read x) : m = k := by
  cases m
  cases k
  exact congrArg _ (Memory.cellsWf_ext hm hk h)

@[simp] theorem Memory.readBytes_length (m : Memory) (a n : Nat) : (m.readBytes a n).length = n := by
  induction n generalizing a with
  | zero => rfl
  | succ n ih => simp [Memory.readBytes, ih]

theorem Memory.readBytes_getD (m : Memory) (a n i : Nat) (hi : i < n) : (m.readBytes a n).getD i 0 = m.read (a + i) := by
  induction n generalizing a i with
  | zero => omega
  | succ n ih =>
    cases i with
    | zero => simp [Memory.readBytes]
    | succ i =>
      simp only [Memory.readBytes, List.getD_cons_succ]
      rw [ih (a + 1) i (by omega)]
      congr 1
      omega

theorem Memory.readBytes_append (m : Memory) (a n k : Nat) :
    m.readBytes a (n + k) = m.readBytes a n ++ m.readBytes (a + n) k := by
  induction n generalizing a with
  | zero => simp [Memory.readBytes]
  | succ n ih =>
    rw [show n + 1 + k = n + k + 1 by omega, Memory.readBytes, ih, Memory.readBytes, List.cons_append,
      show a + 1 + n = a + (n + 1) by omega]

theorem Memory.readBytes_congr {m k : Memory} {a n : Nat} (h : ∀ x, a ≤ x → x < a + n → m.read x = k.read x) :
    m.readBytes a n = k.readBytes a n := by
  induction n generalizing a with
  | zero => rfl
  | succ n ih =>
    rw [Memory.readBytes, Memory.readBytes, h a (by omega) (by omega), ih]
    intro x h1 h2
    exact h x (by omega) (by omega)

theorem Memory.wf_writeBytes {size : Nat} {m : Memory} (hm : m.wf size = true) (a : Nat) (v : Bytes)
    (h : a + v.length ≤ size) : (m.writeBytes a v).wf size = true := by
  induction v generalizing m a with
  | nil => exact hm
  | cons b t ih =>
    simp only [List.length_cons] at h
    exact ih (Memory.wf_write hm (by omega) b) (a + 1) (by omega)

/-- The stored bytes are read back in their places, every other byte stays. -/
theorem Memory.read_writeBytes {size : Nat} {m : Memory} (hm : m.wf size = true) (a : Nat) (v : Bytes)
    (h : a + v.length ≤ size) (x : Nat) :
    (m.writeBytes a v).read x = if a ≤ x ∧ x < a + v.length then v.getD (x - a) 0 else m.read x := by
  induction v generalizing m a with
  | nil => simp [Memory.writeBytes]
  | cons b t ih =>
    simp only [List.length_cons] at h
    rw [Memory.writeBytes, ih (Memory.wf_write hm (by omega) b) (a + 1) (by omega), Memory.read_write hm]
    simp only [List.length_cons]
    by_cases h1 : x = a
    · subst x
      simp
    · by_cases h2 : a + 1 ≤ x ∧ x < a + 1 + t.length
      · rw [if_pos h2, if_pos (by omega), show x - a = x - (a + 1) + 1 by omega, List.getD_cons_succ]
      · rw [if_neg h2, if_neg h1, if_neg (by omega)]

theorem Memory.writeBytes_append (m : Memory) (a : Nat) (u v : Bytes) :
    m.writeBytes a (u ++ v) = (m.writeBytes a u).writeBytes (a + u.length) v := by
  induction u generalizing m a with
  | nil => rfl
  | cons b t ih =>
    rw [List.cons_append, Memory.writeBytes, Memory.writeBytes, ih, List.length_cons, show a + 1 + t.length = a + (t.length + 1) by omega]

/-- What was written is read. -/
theorem Memory.readBytes_writeBytes_self {size : Nat} {m : Memory} (hm : m.wf size = true) (a : Nat) (v : Bytes)
    (h : a + v.length ≤ size) : (m.writeBytes a v).readBytes a v.length = v := by
  apply List.ext_getElem (by simp)
  intro i h1 h2
  have e := Memory.readBytes_getD (m.writeBytes a v) a v.length i h2
  rw [List.getD_eq_getElem _ _ h1] at e
  rw [e, Memory.read_writeBytes hm a v h, if_pos (by omega), show a + i - a = i by omega, List.getD_eq_getElem _ _ h2]

/-- A string read outside the stored bytes is as before. -/
theorem Memory.readBytes_writeBytes_disjoint {size : Nat} {m : Memory} (hm : m.wf size = true) (a : Nat) (v : Bytes)
    (h : a + v.length ≤ size) (c n : Nat) (hd : c + n ≤ a ∨ a + v.length ≤ c) :
    (m.writeBytes a v).readBytes c n = m.readBytes c n := by
  apply Memory.readBytes_congr
  intro x h1 h2
  rw [Memory.read_writeBytes hm a v h, if_neg (by omega)]

end Sys2Proof.Machine
end

