-- ==== Sys2Proof/Laws/State.lean ====
section
/-! SUPPORT. One lemma per field per update of the state and of a queue, so that no proof unfolds a record update. -/

namespace Sys2Proof.Machine

variable (s : State)

/-! ## Updates of the state -/

@[simp] theorem State.setLsb_q0 (m : Memory) : (s.setLsb m).q0 = s.q0 := rfl
@[simp] theorem State.setLsb_q1 (m : Memory) : (s.setLsb m).q1 = s.q1 := rfl
@[simp] theorem State.setLsb_lsb (m : Memory) : (s.setLsb m).lsb = m := rfl
@[simp] theorem State.setLsb_sha (m : Memory) : (s.setLsb m).sha = s.sha := rfl
@[simp] theorem State.setLsb_aes (m : Memory) : (s.setLsb m).aes = s.aes := rfl
@[simp] theorem State.setLsb_zlib (m : Memory) : (s.setLsb m).zlib = s.zlib := rfl
@[simp] theorem State.setLsb_cbWrittenLast (m : Memory) : (s.setLsb m).cbWrittenLast = s.cbWrittenLast := rfl
@[simp] theorem State.setLsb_irqLine (m : Memory) : (s.setLsb m).irqLine = s.irqLine := rfl
@[simp] theorem State.setLsb_localMem (m : Memory) : (s.setLsb m).localMem = s.localMem := rfl
@[simp] theorem State.setLsb_params (m : Memory) : (s.setLsb m).params = s.params := rfl
@[simp] theorem State.setLsb_pending (m : Memory) : (s.setLsb m).pending = s.pending := rfl
@[simp] theorem State.setLsb_responses (m : Memory) : (s.setLsb m).responses = s.responses := rfl
@[simp] theorem State.setLsb_phase (m : Memory) : (s.setLsb m).phase = s.phase := rfl
@[simp] theorem State.setLsb_cur (m : Memory) : (s.setLsb m).cur = s.cur := rfl
@[simp] theorem State.setLsb_freeCount (m : Memory) : (s.setLsb m).freeCount = s.freeCount := rfl
@[simp] theorem State.setLsb_queue (m : Memory) (q : QId) : (s.setLsb m).queue q = s.queue q := by cases q <;> rfl

@[simp] theorem State.setSha_q0 (v : Option ShaSession) : (s.setSha v).q0 = s.q0 := rfl
@[simp] theorem State.setSha_q1 (v : Option ShaSession) : (s.setSha v).q1 = s.q1 := rfl
@[simp] theorem State.setSha_lsb (v : Option ShaSession) : (s.setSha v).lsb = s.lsb := rfl
@[simp] theorem State.setSha_sha (v : Option ShaSession) : (s.setSha v).sha = v := rfl
@[simp] theorem State.setSha_aes (v : Option ShaSession) : (s.setSha v).aes = s.aes := rfl
@[simp] theorem State.setSha_zlib (v : Option ShaSession) : (s.setSha v).zlib = s.zlib := rfl
@[simp] theorem State.setSha_cbWrittenLast (v : Option ShaSession) : (s.setSha v).cbWrittenLast = s.cbWrittenLast := rfl
@[simp] theorem State.setSha_irqLine (v : Option ShaSession) : (s.setSha v).irqLine = s.irqLine := rfl
@[simp] theorem State.setSha_localMem (v : Option ShaSession) : (s.setSha v).localMem = s.localMem := rfl
@[simp] theorem State.setSha_params (v : Option ShaSession) : (s.setSha v).params = s.params := rfl
@[simp] theorem State.setSha_pending (v : Option ShaSession) : (s.setSha v).pending = s.pending := rfl
@[simp] theorem State.setSha_responses (v : Option ShaSession) : (s.setSha v).responses = s.responses := rfl
@[simp] theorem State.setSha_phase (v : Option ShaSession) : (s.setSha v).phase = s.phase := rfl
@[simp] theorem State.setSha_cur (v : Option ShaSession) : (s.setSha v).cur = s.cur := rfl
@[simp] theorem State.setSha_freeCount (v : Option ShaSession) : (s.setSha v).freeCount = s.freeCount := rfl
@[simp] theorem State.setSha_queue (v : Option ShaSession) (q : QId) : (s.setSha v).queue q = s.queue q := by cases q <;> rfl

@[simp] theorem State.setAes_q0 (v : Option AesSession) : (s.setAes v).q0 = s.q0 := rfl
@[simp] theorem State.setAes_q1 (v : Option AesSession) : (s.setAes v).q1 = s.q1 := rfl
@[simp] theorem State.setAes_lsb (v : Option AesSession) : (s.setAes v).lsb = s.lsb := rfl
@[simp] theorem State.setAes_sha (v : Option AesSession) : (s.setAes v).sha = s.sha := rfl
@[simp] theorem State.setAes_aes (v : Option AesSession) : (s.setAes v).aes = v := rfl
@[simp] theorem State.setAes_zlib (v : Option AesSession) : (s.setAes v).zlib = s.zlib := rfl
@[simp] theorem State.setAes_cbWrittenLast (v : Option AesSession) : (s.setAes v).cbWrittenLast = s.cbWrittenLast := rfl
@[simp] theorem State.setAes_irqLine (v : Option AesSession) : (s.setAes v).irqLine = s.irqLine := rfl
@[simp] theorem State.setAes_localMem (v : Option AesSession) : (s.setAes v).localMem = s.localMem := rfl
@[simp] theorem State.setAes_params (v : Option AesSession) : (s.setAes v).params = s.params := rfl
@[simp] theorem State.setAes_pending (v : Option AesSession) : (s.setAes v).pending = s.pending := rfl
@[simp] theorem State.setAes_responses (v : Option AesSession) : (s.setAes v).responses = s.responses := rfl
@[simp] theorem State.setAes_phase (v : Option AesSession) : (s.setAes v).phase = s.phase := rfl
@[simp] theorem State.setAes_cur (v : Option AesSession) : (s.setAes v).cur = s.cur := rfl
@[simp] theorem State.setAes_freeCount (v : Option AesSession) : (s.setAes v).freeCount = s.freeCount := rfl
@[simp] theorem State.setAes_queue (v : Option AesSession) (q : QId) : (s.setAes v).queue q = s.queue q := by cases q <;> rfl

@[simp] theorem State.setZlib_q0 (v : Option ZlibSession) : (s.setZlib v).q0 = s.q0 := rfl
@[simp] theorem State.setZlib_q1 (v : Option ZlibSession) : (s.setZlib v).q1 = s.q1 := rfl
@[simp] theorem State.setZlib_lsb (v : Option ZlibSession) : (s.setZlib v).lsb = s.lsb := rfl
@[simp] theorem State.setZlib_sha (v : Option ZlibSession) : (s.setZlib v).sha = s.sha := rfl
@[simp] theorem State.setZlib_aes (v : Option ZlibSession) : (s.setZlib v).aes = s.aes := rfl
@[simp] theorem State.setZlib_zlib (v : Option ZlibSession) : (s.setZlib v).zlib = v := rfl
@[simp] theorem State.setZlib_cbWrittenLast (v : Option ZlibSession) : (s.setZlib v).cbWrittenLast = s.cbWrittenLast := rfl
@[simp] theorem State.setZlib_irqLine (v : Option ZlibSession) : (s.setZlib v).irqLine = s.irqLine := rfl
@[simp] theorem State.setZlib_localMem (v : Option ZlibSession) : (s.setZlib v).localMem = s.localMem := rfl
@[simp] theorem State.setZlib_params (v : Option ZlibSession) : (s.setZlib v).params = s.params := rfl
@[simp] theorem State.setZlib_pending (v : Option ZlibSession) : (s.setZlib v).pending = s.pending := rfl
@[simp] theorem State.setZlib_responses (v : Option ZlibSession) : (s.setZlib v).responses = s.responses := rfl
@[simp] theorem State.setZlib_phase (v : Option ZlibSession) : (s.setZlib v).phase = s.phase := rfl
@[simp] theorem State.setZlib_cur (v : Option ZlibSession) : (s.setZlib v).cur = s.cur := rfl
@[simp] theorem State.setZlib_freeCount (v : Option ZlibSession) : (s.setZlib v).freeCount = s.freeCount := rfl
@[simp] theorem State.setZlib_queue (v : Option ZlibSession) (q : QId) : (s.setZlib v).queue q = s.queue q := by cases q <;> rfl

@[simp] theorem State.setWritten_q0 (v : Word) : (s.setWritten v).q0 = s.q0 := rfl
@[simp] theorem State.setWritten_q1 (v : Word) : (s.setWritten v).q1 = s.q1 := rfl
@[simp] theorem State.setWritten_lsb (v : Word) : (s.setWritten v).lsb = s.lsb := rfl
@[simp] theorem State.setWritten_sha (v : Word) : (s.setWritten v).sha = s.sha := rfl
@[simp] theorem State.setWritten_aes (v : Word) : (s.setWritten v).aes = s.aes := rfl
@[simp] theorem State.setWritten_zlib (v : Word) : (s.setWritten v).zlib = s.zlib := rfl
@[simp] theorem State.setWritten_cbWrittenLast (v : Word) : (s.setWritten v).cbWrittenLast = v := rfl
@[simp] theorem State.setWritten_irqLine (v : Word) : (s.setWritten v).irqLine = s.irqLine := rfl
@[simp] theorem State.setWritten_localMem (v : Word) : (s.setWritten v).localMem = s.localMem := rfl
@[simp] theorem State.setWritten_params (v : Word) : (s.setWritten v).params = s.params := rfl
@[simp] theorem State.setWritten_pending (v : Word) : (s.setWritten v).pending = s.pending := rfl
@[simp] theorem State.setWritten_responses (v : Word) : (s.setWritten v).responses = s.responses := rfl
@[simp] theorem State.setWritten_phase (v : Word) : (s.setWritten v).phase = s.phase := rfl
@[simp] theorem State.setWritten_cur (v : Word) : (s.setWritten v).cur = s.cur := rfl
@[simp] theorem State.setWritten_freeCount (v : Word) : (s.setWritten v).freeCount = s.freeCount := rfl
@[simp] theorem State.setWritten_queue (v : Word) (q : QId) : (s.setWritten v).queue q = s.queue q := by cases q <;> rfl

@[simp] theorem State.setIrq_q0 (b : Bool) : (s.setIrq b).q0 = s.q0 := rfl
@[simp] theorem State.setIrq_q1 (b : Bool) : (s.setIrq b).q1 = s.q1 := rfl
@[simp] theorem State.setIrq_lsb (b : Bool) : (s.setIrq b).lsb = s.lsb := rfl
@[simp] theorem State.setIrq_sha (b : Bool) : (s.setIrq b).sha = s.sha := rfl
@[simp] theorem State.setIrq_aes (b : Bool) : (s.setIrq b).aes = s.aes := rfl
@[simp] theorem State.setIrq_zlib (b : Bool) : (s.setIrq b).zlib = s.zlib := rfl
@[simp] theorem State.setIrq_cbWrittenLast (b : Bool) : (s.setIrq b).cbWrittenLast = s.cbWrittenLast := rfl
@[simp] theorem State.setIrq_irqLine (b : Bool) : (s.setIrq b).irqLine = b := rfl
@[simp] theorem State.setIrq_localMem (b : Bool) : (s.setIrq b).localMem = s.localMem := rfl
@[simp] theorem State.setIrq_params (b : Bool) : (s.setIrq b).params = s.params := rfl
@[simp] theorem State.setIrq_pending (b : Bool) : (s.setIrq b).pending = s.pending := rfl
@[simp] theorem State.setIrq_responses (b : Bool) : (s.setIrq b).responses = s.responses := rfl
@[simp] theorem State.setIrq_phase (b : Bool) : (s.setIrq b).phase = s.phase := rfl
@[simp] theorem State.setIrq_cur (b : Bool) : (s.setIrq b).cur = s.cur := rfl
@[simp] theorem State.setIrq_freeCount (b : Bool) : (s.setIrq b).freeCount = s.freeCount := rfl
@[simp] theorem State.setIrq_queue (b : Bool) (q : QId) : (s.setIrq b).queue q = s.queue q := by cases q <;> rfl

@[simp] theorem State.setLocal_q0 (m : Memory) : (s.setLocal m).q0 = s.q0 := rfl
@[simp] theorem State.setLocal_q1 (m : Memory) : (s.setLocal m).q1 = s.q1 := rfl
@[simp] theorem State.setLocal_lsb (m : Memory) : (s.setLocal m).lsb = s.lsb := rfl
@[simp] theorem State.setLocal_sha (m : Memory) : (s.setLocal m).sha = s.sha := rfl
@[simp] theorem State.setLocal_aes (m : Memory) : (s.setLocal m).aes = s.aes := rfl
@[simp] theorem State.setLocal_zlib (m : Memory) : (s.setLocal m).zlib = s.zlib := rfl
@[simp] theorem State.setLocal_cbWrittenLast (m : Memory) : (s.setLocal m).cbWrittenLast = s.cbWrittenLast := rfl
@[simp] theorem State.setLocal_irqLine (m : Memory) : (s.setLocal m).irqLine = s.irqLine := rfl
@[simp] theorem State.setLocal_localMem (m : Memory) : (s.setLocal m).localMem = m := rfl
@[simp] theorem State.setLocal_params (m : Memory) : (s.setLocal m).params = s.params := rfl
@[simp] theorem State.setLocal_pending (m : Memory) : (s.setLocal m).pending = s.pending := rfl
@[simp] theorem State.setLocal_responses (m : Memory) : (s.setLocal m).responses = s.responses := rfl
@[simp] theorem State.setLocal_phase (m : Memory) : (s.setLocal m).phase = s.phase := rfl
@[simp] theorem State.setLocal_cur (m : Memory) : (s.setLocal m).cur = s.cur := rfl
@[simp] theorem State.setLocal_freeCount (m : Memory) : (s.setLocal m).freeCount = s.freeCount := rfl
@[simp] theorem State.setLocal_queue (m : Memory) (q : QId) : (s.setLocal m).queue q = s.queue q := by cases q <;> rfl

@[simp] theorem State.setPending_q0 (l : List HostEvent) : (s.setPending l).q0 = s.q0 := rfl
@[simp] theorem State.setPending_q1 (l : List HostEvent) : (s.setPending l).q1 = s.q1 := rfl
@[simp] theorem State.setPending_lsb (l : List HostEvent) : (s.setPending l).lsb = s.lsb := rfl
@[simp] theorem State.setPending_sha (l : List HostEvent) : (s.setPending l).sha = s.sha := rfl
@[simp] theorem State.setPending_aes (l : List HostEvent) : (s.setPending l).aes = s.aes := rfl
@[simp] theorem State.setPending_zlib (l : List HostEvent) : (s.setPending l).zlib = s.zlib := rfl
@[simp] theorem State.setPending_cbWrittenLast (l : List HostEvent) : (s.setPending l).cbWrittenLast = s.cbWrittenLast := rfl
@[simp] theorem State.setPending_irqLine (l : List HostEvent) : (s.setPending l).irqLine = s.irqLine := rfl
@[simp] theorem State.setPending_localMem (l : List HostEvent) : (s.setPending l).localMem = s.localMem := rfl
@[simp] theorem State.setPending_params (l : List HostEvent) : (s.setPending l).params = s.params := rfl
@[simp] theorem State.setPending_pending (l : List HostEvent) : (s.setPending l).pending = l := rfl
@[simp] theorem State.setPending_responses (l : List HostEvent) : (s.setPending l).responses = s.responses := rfl
@[simp] theorem State.setPending_phase (l : List HostEvent) : (s.setPending l).phase = s.phase := rfl
@[simp] theorem State.setPending_cur (l : List HostEvent) : (s.setPending l).cur = s.cur := rfl
@[simp] theorem State.setPending_freeCount (l : List HostEvent) : (s.setPending l).freeCount = s.freeCount := rfl
@[simp] theorem State.setPending_queue (l : List HostEvent) (q : QId) : (s.setPending l).queue q = s.queue q := by cases q <;> rfl

@[simp] theorem State.pushResponse_q0 (r : Response) : (s.pushResponse r).q0 = s.q0 := rfl
@[simp] theorem State.pushResponse_q1 (r : Response) : (s.pushResponse r).q1 = s.q1 := rfl
@[simp] theorem State.pushResponse_lsb (r : Response) : (s.pushResponse r).lsb = s.lsb := rfl
@[simp] theorem State.pushResponse_sha (r : Response) : (s.pushResponse r).sha = s.sha := rfl
@[simp] theorem State.pushResponse_aes (r : Response) : (s.pushResponse r).aes = s.aes := rfl
@[simp] theorem State.pushResponse_zlib (r : Response) : (s.pushResponse r).zlib = s.zlib := rfl
@[simp] theorem State.pushResponse_cbWrittenLast (r : Response) : (s.pushResponse r).cbWrittenLast = s.cbWrittenLast := rfl
@[simp] theorem State.pushResponse_irqLine (r : Response) : (s.pushResponse r).irqLine = s.irqLine := rfl
@[simp] theorem State.pushResponse_localMem (r : Response) : (s.pushResponse r).localMem = s.localMem := rfl
@[simp] theorem State.pushResponse_params (r : Response) : (s.pushResponse r).params = s.params := rfl
@[simp] theorem State.pushResponse_pending (r : Response) : (s.pushResponse r).pending = s.pending := rfl
@[simp] theorem State.pushResponse_responses (r : Response) : (s.pushResponse r).responses = r :: s.responses := rfl
@[simp] theorem State.pushResponse_phase (r : Response) : (s.pushResponse r).phase = s.phase := rfl
@[simp] theorem State.pushResponse_cur (r : Response) : (s.pushResponse r).cur = s.cur := rfl
@[simp] theorem State.pushResponse_freeCount (r : Response) : (s.pushResponse r).freeCount = s.freeCount := rfl
@[simp] theorem State.pushResponse_queue (r : Response) (q : QId) : (s.pushResponse r).queue q = s.queue q := by cases q <;> rfl

@[simp] theorem State.setPhase_q0 (p : Phase) : (s.setPhase p).q0 = s.q0 := rfl
@[simp] theorem State.setPhase_q1 (p : Phase) : (s.setPhase p).q1 = s.q1 := rfl
@[simp] theorem State.setPhase_lsb (p : Phase) : (s.setPhase p).lsb = s.lsb := rfl
@[simp] theorem State.setPhase_sha (p : Phase) : (s.setPhase p).sha = s.sha := rfl
@[simp] theorem State.setPhase_aes (p : Phase) : (s.setPhase p).aes = s.aes := rfl
@[simp] theorem State.setPhase_zlib (p : Phase) : (s.setPhase p).zlib = s.zlib := rfl
@[simp] theorem State.setPhase_cbWrittenLast (p : Phase) : (s.setPhase p).cbWrittenLast = s.cbWrittenLast := rfl
@[simp] theorem State.setPhase_irqLine (p : Phase) : (s.setPhase p).irqLine = s.irqLine := rfl
@[simp] theorem State.setPhase_localMem (p : Phase) : (s.setPhase p).localMem = s.localMem := rfl
@[simp] theorem State.setPhase_params (p : Phase) : (s.setPhase p).params = s.params := rfl
@[simp] theorem State.setPhase_pending (p : Phase) : (s.setPhase p).pending = s.pending := rfl
@[simp] theorem State.setPhase_responses (p : Phase) : (s.setPhase p).responses = s.responses := rfl
@[simp] theorem State.setPhase_phase (p : Phase) : (s.setPhase p).phase = p := rfl
@[simp] theorem State.setPhase_cur (p : Phase) : (s.setPhase p).cur = s.cur := rfl
@[simp] theorem State.setPhase_freeCount (p : Phase) : (s.setPhase p).freeCount = s.freeCount := rfl
@[simp] theorem State.setPhase_queue (p : Phase) (q : QId) : (s.setPhase p).queue q = s.queue q := by cases q <;> rfl

@[simp] theorem State.setCur_q0 (q : QId) : (s.setCur q).q0 = s.q0 := rfl
@[simp] theorem State.setCur_q1 (q : QId) : (s.setCur q).q1 = s.q1 := rfl
@[simp] theorem State.setCur_lsb (q : QId) : (s.setCur q).lsb = s.lsb := rfl
@[simp] theorem State.setCur_sha (q : QId) : (s.setCur q).sha = s.sha := rfl
@[simp] theorem State.setCur_aes (q : QId) : (s.setCur q).aes = s.aes := rfl
@[simp] theorem State.setCur_zlib (q : QId) : (s.setCur q).zlib = s.zlib := rfl
@[simp] theorem State.setCur_cbWrittenLast (q : QId) : (s.setCur q).cbWrittenLast = s.cbWrittenLast := rfl
@[simp] theorem State.setCur_irqLine (q : QId) : (s.setCur q).irqLine = s.irqLine := rfl
@[simp] theorem State.setCur_localMem (q : QId) : (s.setCur q).localMem = s.localMem := rfl
@[simp] theorem State.setCur_params (q : QId) : (s.setCur q).params = s.params := rfl
@[simp] theorem State.setCur_pending (q : QId) : (s.setCur q).pending = s.pending := rfl
@[simp] theorem State.setCur_responses (q : QId) : (s.setCur q).responses = s.responses := rfl
@[simp] theorem State.setCur_phase (q : QId) : (s.setCur q).phase = s.phase := rfl
@[simp] theorem State.setCur_cur (q : QId) : (s.setCur q).cur = q := rfl
@[simp] theorem State.setCur_freeCount (q : QId) : (s.setCur q).freeCount = s.freeCount := rfl
@[simp] theorem State.setCur_queue (q : QId) (q' : QId) : (s.setCur q).queue q' = s.queue q' := by cases q' <;> rfl

@[simp] theorem State.bumpFree_q0 : s.bumpFree.q0 = s.q0 := rfl
@[simp] theorem State.bumpFree_q1 : s.bumpFree.q1 = s.q1 := rfl
@[simp] theorem State.bumpFree_lsb : s.bumpFree.lsb = s.lsb := rfl
@[simp] theorem State.bumpFree_sha : s.bumpFree.sha = s.sha := rfl
@[simp] theorem State.bumpFree_aes : s.bumpFree.aes = s.aes := rfl
@[simp] theorem State.bumpFree_zlib : s.bumpFree.zlib = s.zlib := rfl
@[simp] theorem State.bumpFree_cbWrittenLast : s.bumpFree.cbWrittenLast = s.cbWrittenLast := rfl
@[simp] theorem State.bumpFree_irqLine : s.bumpFree.irqLine = s.irqLine := rfl
@[simp] theorem State.bumpFree_localMem : s.bumpFree.localMem = s.localMem := rfl
@[simp] theorem State.bumpFree_params : s.bumpFree.params = s.params := rfl
@[simp] theorem State.bumpFree_pending : s.bumpFree.pending = s.pending := rfl
@[simp] theorem State.bumpFree_responses : s.bumpFree.responses = s.responses := rfl
@[simp] theorem State.bumpFree_phase : s.bumpFree.phase = s.phase := rfl
@[simp] theorem State.bumpFree_cur : s.bumpFree.cur = s.cur := rfl
@[simp] theorem State.bumpFree_freeCount : s.bumpFree.freeCount = s.freeCount + 1 := rfl
@[simp] theorem State.bumpFree_queue (q : QId) : s.bumpFree.queue q = s.queue q := by cases q <;> rfl

/-! ## Updates of a queue -/

@[simp] theorem State.setQueue_lsb (q : QId) (v : Queue) : (s.setQueue q v).lsb = s.lsb := by cases q <;> rfl
@[simp] theorem State.setQueue_sha (q : QId) (v : Queue) : (s.setQueue q v).sha = s.sha := by cases q <;> rfl
@[simp] theorem State.setQueue_aes (q : QId) (v : Queue) : (s.setQueue q v).aes = s.aes := by cases q <;> rfl
@[simp] theorem State.setQueue_zlib (q : QId) (v : Queue) : (s.setQueue q v).zlib = s.zlib := by cases q <;> rfl
@[simp] theorem State.setQueue_cbWrittenLast (q : QId) (v : Queue) : (s.setQueue q v).cbWrittenLast = s.cbWrittenLast := by cases q <;> rfl
@[simp] theorem State.setQueue_irqLine (q : QId) (v : Queue) : (s.setQueue q v).irqLine = s.irqLine := by cases q <;> rfl
@[simp] theorem State.setQueue_localMem (q : QId) (v : Queue) : (s.setQueue q v).localMem = s.localMem := by cases q <;> rfl
@[simp] theorem State.setQueue_params (q : QId) (v : Queue) : (s.setQueue q v).params = s.params := by cases q <;> rfl
@[simp] theorem State.setQueue_pending (q : QId) (v : Queue) : (s.setQueue q v).pending = s.pending := by cases q <;> rfl
@[simp] theorem State.setQueue_responses (q : QId) (v : Queue) : (s.setQueue q v).responses = s.responses := by cases q <;> rfl
@[simp] theorem State.setQueue_phase (q : QId) (v : Queue) : (s.setQueue q v).phase = s.phase := by cases q <;> rfl
@[simp] theorem State.setQueue_cur (q : QId) (v : Queue) : (s.setQueue q v).cur = s.cur := by cases q <;> rfl
@[simp] theorem State.setQueue_freeCount (q : QId) (v : Queue) : (s.setQueue q v).freeCount = s.freeCount := by cases q <;> rfl

@[simp] theorem State.setQueue_queue (q : QId) (v : Queue) : (s.setQueue q v).queue q = v := by cases q <;> rfl
@[simp] theorem State.setQueue_queue_ne {q r : QId} (v : Queue) (h : r ≠ q) : (s.setQueue q v).queue r = s.queue r := by
  cases q <;> cases r <;> first | rfl | exact absurd rfl h
@[simp] theorem State.setQueue_setQueue (q : QId) (v w : Queue) : (s.setQueue q v).setQueue q w = s.setQueue q w := by
  cases q <;> rfl
@[simp] theorem State.setQueue_self (q : QId) : s.setQueue q (s.queue q) = s := by cases q <;> rfl
@[simp] theorem State.queue_q0 : s.queue .q0 = s.q0 := rfl
@[simp] theorem State.queue_q1 : s.queue .q1 = s.q1 := rfl
@[simp] theorem State.setQueue_q0_q0 (v : Queue) : (s.setQueue .q0 v).q0 = v := rfl
@[simp] theorem State.setQueue_q0_q1 (v : Queue) : (s.setQueue .q0 v).q1 = s.q1 := rfl
@[simp] theorem State.setQueue_q1_q0 (v : Queue) : (s.setQueue .q1 v).q0 = s.q0 := rfl
@[simp] theorem State.setQueue_q1_q1 (v : Queue) : (s.setQueue .q1 v).q1 = v := rfl

/-! ## The registers of a queue under what the controller and firmware write -/

variable (b : QueueBits) (q : Queue)

@[simp] theorem Queue.started_control : (q.started b).control = q.control &&& ~~~bitMask b.halt := rfl
@[simp] theorem Queue.started_head : (q.started b).head = q.head := rfl
@[simp] theorem Queue.started_tail : (q.started b).tail = q.tail := rfl
@[simp] theorem Queue.started_status : (q.started b).status = q.status := rfl
@[simp] theorem Queue.started_ien : (q.started b).ien = q.ien := rfl
@[simp] theorem Queue.started_ists : (q.started b).ists = q.ists := rfl
@[simp] theorem Queue.started_enabled : (q.started b).enabled = q.enabled := rfl

@[simp] theorem Queue.succeeded_control : (q.succeeded b).control = q.control := rfl
@[simp] theorem Queue.succeeded_head : (q.succeeded b).head = q.head + BitVec.ofNat 32 descBytes := rfl
@[simp] theorem Queue.succeeded_tail : (q.succeeded b).tail = q.tail := rfl
@[simp] theorem Queue.succeeded_status : (q.succeeded b).status = statusSuccess := rfl
@[simp] theorem Queue.succeeded_ien : (q.succeeded b).ien = q.ien := rfl
@[simp] theorem Queue.succeeded_ists : (q.succeeded b).ists = q.ists ||| bitMask b.completion := rfl
@[simp] theorem Queue.succeeded_enabled : (q.succeeded b).enabled = q.enabled := rfl

@[simp] theorem Queue.failed_control (err : BitVec 6) : (q.failed b err).control = q.control := rfl
@[simp] theorem Queue.failed_head (err : BitVec 6) : (q.failed b err).head = q.head := rfl
@[simp] theorem Queue.failed_tail (err : BitVec 6) : (q.failed b err).tail = q.tail := rfl
@[simp] theorem Queue.failed_status (err : BitVec 6) : (q.failed b err).status = err.setWidth 32 := rfl
@[simp] theorem Queue.failed_ien (err : BitVec 6) : (q.failed b err).ien = q.ien := rfl
@[simp] theorem Queue.failed_ists (err : BitVec 6) : (q.failed b err).ists = q.ists ||| bitMask b.error := rfl
@[simp] theorem Queue.failed_enabled (err : BitVec 6) : (q.failed b err).enabled = q.enabled := rfl

@[simp] theorem Queue.stopped_control : (q.stopped b).control = q.control ||| bitMask b.halt := rfl
@[simp] theorem Queue.stopped_head : (q.stopped b).head = q.head := rfl
@[simp] theorem Queue.stopped_tail : (q.stopped b).tail = q.tail := rfl
@[simp] theorem Queue.stopped_status : (q.stopped b).status = q.status := rfl
@[simp] theorem Queue.stopped_ien : (q.stopped b).ien = q.ien := rfl
@[simp] theorem Queue.stopped_ists : (q.stopped b).ists = q.ists ||| bitMask b.qStop ||| (if q.head = q.tail then bitMask b.qEmpty else 0) := rfl
@[simp] theorem Queue.stopped_enabled : (q.stopped b).enabled = q.enabled := rfl

@[simp] theorem Queue.armed_control : (q.armed b).control = q.control &&& ~~~bitMask b.halt := rfl
@[simp] theorem Queue.armed_head : (q.armed b).head = q.head := rfl
@[simp] theorem Queue.armed_tail : (q.armed b).tail = q.head + BitVec.ofNat 32 descBytes := rfl
@[simp] theorem Queue.armed_status : (q.armed b).status = q.status := rfl
@[simp] theorem Queue.armed_ien : (q.armed b).ien = q.ien := rfl
@[simp] theorem Queue.armed_ists : (q.armed b).ists = q.ists := rfl
@[simp] theorem Queue.armed_enabled : (q.armed b).enabled = true := rfl

@[simp] theorem Queue.writeReg_control_control (v : Word) : (q.writeReg b .control v).control = v &&& ~~~bitMask b.run := rfl
@[simp] theorem Queue.writeReg_control_head (v : Word) : (q.writeReg b .control v).head = q.head := rfl
@[simp] theorem Queue.writeReg_control_tail (v : Word) : (q.writeReg b .control v).tail = q.tail := rfl
@[simp] theorem Queue.writeReg_control_status (v : Word) : (q.writeReg b .control v).status = q.status := rfl
@[simp] theorem Queue.writeReg_control_ien (v : Word) : (q.writeReg b .control v).ien = q.ien := rfl
@[simp] theorem Queue.writeReg_control_ists (v : Word) : (q.writeReg b .control v).ists = q.ists := rfl
@[simp] theorem Queue.writeReg_control_enabled (v : Word) : (q.writeReg b .control v).enabled = ((v &&& bitMask b.run) != 0) := rfl

@[simp] theorem Queue.writeReg_tail_control (v : Word) : (q.writeReg b .tail v).control = q.control := rfl
@[simp] theorem Queue.writeReg_tail_head (v : Word) : (q.writeReg b .tail v).head = q.head := rfl
@[simp] theorem Queue.writeReg_tail_tail (v : Word) : (q.writeReg b .tail v).tail = v := rfl
@[simp] theorem Queue.writeReg_tail_status (v : Word) : (q.writeReg b .tail v).status = q.status := rfl
@[simp] theorem Queue.writeReg_tail_ien (v : Word) : (q.writeReg b .tail v).ien = q.ien := rfl
@[simp] theorem Queue.writeReg_tail_ists (v : Word) : (q.writeReg b .tail v).ists = q.ists := rfl
@[simp] theorem Queue.writeReg_tail_enabled (v : Word) : (q.writeReg b .tail v).enabled = q.enabled := rfl

@[simp] theorem Queue.writeReg_head_control (v : Word) : (q.writeReg b .head v).control = q.control := rfl
@[simp] theorem Queue.writeReg_head_head (v : Word) : (q.writeReg b .head v).head = v := rfl
@[simp] theorem Queue.writeReg_head_tail (v : Word) : (q.writeReg b .head v).tail = q.tail := rfl
@[simp] theorem Queue.writeReg_head_status (v : Word) : (q.writeReg b .head v).status = q.status := rfl
@[simp] theorem Queue.writeReg_head_ien (v : Word) : (q.writeReg b .head v).ien = q.ien := rfl
@[simp] theorem Queue.writeReg_head_ists (v : Word) : (q.writeReg b .head v).ists = q.ists := rfl
@[simp] theorem Queue.writeReg_head_enabled (v : Word) : (q.writeReg b .head v).enabled = q.enabled := rfl

@[simp] theorem Queue.writeReg_ien_control (v : Word) : (q.writeReg b .ien v).control = q.control := rfl
@[simp] theorem Queue.writeReg_ien_head (v : Word) : (q.writeReg b .ien v).head = q.head := rfl
@[simp] theorem Queue.writeReg_ien_tail (v : Word) : (q.writeReg b .ien v).tail = q.tail := rfl
@[simp] theorem Queue.writeReg_ien_status (v : Word) : (q.writeReg b .ien v).status = q.status := rfl
@[simp] theorem Queue.writeReg_ien_ien (v : Word) : (q.writeReg b .ien v).ien = v := rfl
@[simp] theorem Queue.writeReg_ien_ists (v : Word) : (q.writeReg b .ien v).ists = q.ists := rfl
@[simp] theorem Queue.writeReg_ien_enabled (v : Word) : (q.writeReg b .ien v).enabled = q.enabled := rfl

@[simp] theorem Queue.writeReg_ists_control (v : Word) : (q.writeReg b .ists v).control = q.control := rfl
@[simp] theorem Queue.writeReg_ists_head (v : Word) : (q.writeReg b .ists v).head = q.head := rfl
@[simp] theorem Queue.writeReg_ists_tail (v : Word) : (q.writeReg b .ists v).tail = q.tail := rfl
@[simp] theorem Queue.writeReg_ists_status (v : Word) : (q.writeReg b .ists v).status = q.status := rfl
@[simp] theorem Queue.writeReg_ists_ien (v : Word) : (q.writeReg b .ists v).ien = q.ien := rfl
@[simp] theorem Queue.writeReg_ists_ists (v : Word) : (q.writeReg b .ists v).ists = q.ists &&& ~~~v := rfl
@[simp] theorem Queue.writeReg_ists_enabled (v : Word) : (q.writeReg b .ists v).enabled = q.enabled := rfl

@[simp] theorem Queue.writeReg_status_control (v : Word) : (q.writeReg b .status v).control = q.control := rfl
@[simp] theorem Queue.writeReg_status_head (v : Word) : (q.writeReg b .status v).head = q.head := rfl
@[simp] theorem Queue.writeReg_status_tail (v : Word) : (q.writeReg b .status v).tail = q.tail := rfl
@[simp] theorem Queue.writeReg_status_status (v : Word) : (q.writeReg b .status v).status = v := rfl
@[simp] theorem Queue.writeReg_status_ien (v : Word) : (q.writeReg b .status v).ien = q.ien := rfl
@[simp] theorem Queue.writeReg_status_ists (v : Word) : (q.writeReg b .status v).ists = q.ists := rfl
@[simp] theorem Queue.writeReg_status_enabled (v : Word) : (q.writeReg b .status v).enabled = q.enabled := rfl

@[simp] theorem Queue.readReg_control : q.readReg .control = q.control := rfl
@[simp] theorem Queue.readReg_tail : q.readReg .tail = q.tail := rfl
@[simp] theorem Queue.readReg_head : q.readReg .head = q.head := rfl
@[simp] theorem Queue.readReg_ien : q.readReg .ien = q.ien := rfl
@[simp] theorem Queue.readReg_ists : q.readReg .ists = q.ists := rfl
@[simp] theorem Queue.readReg_status : q.readReg .status = q.status := rfl

/-! ## The start of a run -/

variable (p : Params) (l m : Memory)

@[simp] theorem State.start_q0 : (State.start p l m).q0 = Queue.start p.bits := rfl
@[simp] theorem State.start_q1 : (State.start p l m).q1 = Queue.start p.bits := rfl
@[simp] theorem State.start_lsb : (State.start p l m).lsb = l := rfl
@[simp] theorem State.start_sha : (State.start p l m).sha = none := rfl
@[simp] theorem State.start_aes : (State.start p l m).aes = none := rfl
@[simp] theorem State.start_zlib : (State.start p l m).zlib = none := rfl
@[simp] theorem State.start_cbWrittenLast : (State.start p l m).cbWrittenLast = 0 := rfl
@[simp] theorem State.start_irqLine : (State.start p l m).irqLine = false := rfl
@[simp] theorem State.start_localMem : (State.start p l m).localMem = m := rfl
@[simp] theorem State.start_params : (State.start p l m).params = p := rfl
@[simp] theorem State.start_pending : (State.start p l m).pending = [] := rfl
@[simp] theorem State.start_responses : (State.start p l m).responses = [] := rfl
@[simp] theorem State.start_phase : (State.start p l m).phase = .idle := rfl
@[simp] theorem State.start_cur : (State.start p l m).cur = .q0 := rfl
@[simp] theorem State.start_freeCount : (State.start p l m).freeCount = 0 := rfl
@[simp] theorem State.start_queue (q : QId) : (State.start p l m).queue q = Queue.start p.bits := by cases q <;> rfl
@[simp] theorem Queue.start_control : (Queue.start b).control = bitMask b.halt := rfl
@[simp] theorem Queue.start_head : (Queue.start b).head = 0 := rfl
@[simp] theorem Queue.start_tail : (Queue.start b).tail = 0 := rfl
@[simp] theorem Queue.start_status : (Queue.start b).status = 0 := rfl
@[simp] theorem Queue.start_ien : (Queue.start b).ien = 0 := rfl
@[simp] theorem Queue.start_ists : (Queue.start b).ists = 0 := rfl
@[simp] theorem Queue.start_enabled : (Queue.start b).enabled = false := rfl

end Sys2Proof.Machine
end

