-- ==== Sys2Proof/Laws/Ops.lean ====
section
/-! SUPPORT. What each shared operation can do, said once: the gateway, the transfer context, the two ends of a command, the end
of an access. -/

namespace Sys2Proof.Machine

/-! ## The bytes of a memory type -/

@[simp] theorem State.bytesAt_length (s : State) (mt : MemType) (a n : Nat) : (s.bytesAt mt a n).length = n := by
  simp [State.bytesAt]

theorem State.bytesAt_getD (s : State) (mt : MemType) (a n i : Nat) (hi : i < n) :
    (s.bytesAt mt a n).getD i 0 = s.byteAt mt (a + i) := by
  simp [State.bytesAt, List.getD_eq_getElem?_getD, hi]

/-- Two byte strings of `n` bytes are equal when their bytes are. -/
theorem bytes_ext {u v : Bytes} (h : u.length = v.length) (hb : ∀ i, i < u.length → u.getD i 0 = v.getD i 0) : u = v := by
  apply List.ext_getElem h
  intro i h1 h2
  simpa [List.getD_eq_getElem?_getD, h1, h2] using hb i h1

theorem State.bytesAt_sb (s : State) (a n : Nat) : s.bytesAt .sb a n = s.lsb.readBytes a n := by
  apply bytes_ext (by simp)
  intro i hi
  rw [State.bytesAt_length] at hi
  rw [State.bytesAt_getD s .sb a n i hi, Memory.readBytes_getD s.lsb a n i hi]
  rfl

theorem State.bytesAt_localMem (s : State) (a n : Nat) : s.bytesAt .localMem a n = s.localMem.readBytes a n := by
  apply bytes_ext (by simp)
  intro i hi
  rw [State.bytesAt_length] at hi
  rw [State.bytesAt_getD s .localMem a n i hi, Memory.readBytes_getD s.localMem a n i hi]
  rfl

theorem State.bytesAt_append (s : State) (mt : MemType) (a n k : Nat) :
    s.bytesAt mt a (n + k) = s.bytesAt mt a n ++ s.bytesAt mt (a + n) k := by
  simp [State.bytesAt, List.range_add, Nat.add_assoc]

theorem State.bytesAt_congr {s t : State} {mt : MemType} {a n : Nat}
    (h : ∀ x, a ≤ x → x < a + n → t.byteAt mt x = s.byteAt mt x) : t.bytesAt mt a n = s.bytesAt mt a n := by
  simp only [State.bytesAt]
  apply List.map_congr_left
  intro i hi
  rw [List.mem_range] at hi
  exact h (a + i) (by omega) (by omega)

/-! ## Served accesses -/

theorem mappedRange_mono {p : Params} {a n b k : Nat} (h : mappedRange p a n = true) (h1 : a ≤ b) (h2 : b + k ≤ a + n) :
    mappedRange p b k = true := by
  simp only [mappedRange, List.all_eq_true, decide_eq_true_eq] at h ⊢
  intro r hr
  have := h r hr
  omega

theorem State.serves_mono {s : State} {mt : MemType} {a n b k : Nat} (h : s.serves mt a n = true) (h1 : a ≤ b)
    (h2 : b + k ≤ a + n) : s.serves mt b k = true := by
  by_cases hk : k = 0
  · simp [State.serves, hk]
  · have hn : n ≠ 0 := by omega
    cases mt with
    | system => simp [State.serves, hn] at h
    | code3 => simp [State.serves, hn] at h
    | sb =>
      simp only [State.serves, Bool.or_eq_true, Bool.and_eq_true, decide_eq_true_eq, beq_iff_eq] at h ⊢
      omega
    | localMem =>
      simp only [State.serves, Bool.or_eq_true, Bool.and_eq_true, decide_eq_true_eq, beq_iff_eq] at h ⊢
      rcases h with h | h
      · omega
      · exact .inr ⟨by omega, mappedRange_mono h.2 h1 h2⟩

theorem State.serves_congr {s t : State} (h : t.params = s.params) (mt : MemType) (a n : Nat) :
    t.serves mt a n = s.serves mt a n := by
  simp [State.serves, h]

/-! ## The gateway -/

theorem lsbInRange_iff (a n : Nat) : lsbInRange a n = true ↔ a < 4096 ∧ a + n ≤ 4096 := by
  rw [lsbInRange, Bool.and_eq_true, decide_eq_true_eq, decide_eq_true_eq]
  rfl

/-- A served read answers the bytes. -/
theorem memRead_of_serves {s : State} {mt : MemType} {a n : Nat} (hn : n ≠ 0) (h : s.serves mt a n = true) :
    memRead s mt a n = .ok (s.bytesAt mt a n) := by
  cases mt with
  | system => simp [State.serves, hn] at h
  | code3 => simp [State.serves, hn] at h
  | sb =>
    simp only [State.serves, Bool.or_eq_true, Bool.and_eq_true, decide_eq_true_eq, beq_iff_eq, hn, false_or] at h
    simp [memRead, (lsbInRange_iff a n).2 h, State.bytesAt_sb]
  | localMem =>
    simp only [State.serves, Bool.or_eq_true, Bool.and_eq_true, decide_eq_true_eq, beq_iff_eq, hn, false_or] at h
    have h1 : a + n ≤ addrLimit := h.1
    simp [memRead, pspRead, h1, h.2, State.bytesAt_localMem]

/-- A read that answers was served. -/
theorem memRead_ok {s : State} {mt : MemType} {a n : Nat} {v : Bytes} (h : memRead s mt a n = .ok v) :
    s.serves mt a n = true ∧ v = s.bytesAt mt a n := by
  cases mt with
  | system => simp [memRead] at h
  | code3 => simp [memRead] at h
  | sb =>
    simp only [memRead] at h
    split at h
    · rename_i hr
      rw [lsbInRange_iff] at hr
      refine ⟨by simp [State.serves, hr.1, hr.2], ?_⟩
      rw [State.bytesAt_sb]
      exact (Except.ok.inj h).symm
    · cases h
  | localMem =>
    simp only [memRead, pspRead] at h
    split at h
    · rename_i hr
      by_cases hm : mappedRange s.params a n = true
      · simp only [hm, if_true] at h
        refine ⟨?_, ?_⟩
        · simp only [State.serves, hm, Bool.and_true, Bool.or_eq_true, decide_eq_true_eq, addrLimit] at hr ⊢
          exact .inr hr
        · rw [State.bytesAt_localMem]
          exact (Except.ok.inj h).symm
      · simp [hm] at h
    · cases h

/-- What a write leaves: the two memories and the counter apart, the state as it was; canonical memories stay so. -/
structure Moved (s t : State) : Prop where
  rest : t = { s with lsb := t.lsb, localMem := t.localMem, cbWrittenLast := t.cbWrittenLast }
  wf : s.MemoryWf → t.MemoryWf

theorem Moved.refl (s : State) : Moved s s := ⟨rfl, id⟩

theorem Moved.trans {s t u : State} (h1 : Moved s t) (h2 : Moved t u) : Moved s u :=
  ⟨by rw [h2.rest, h1.rest], fun h => h2.wf (h1.wf h)⟩

theorem Moved.params {s t : State} (h : Moved s t) : t.params = s.params := by rw [h.rest]
theorem Moved.queue {s t : State} (h : Moved s t) (q : QId) : t.queue q = s.queue q := by
  rw [h.rest]
  cases q <;> rfl
theorem Moved.sha {s t : State} (h : Moved s t) : t.sha = s.sha := by rw [h.rest]
theorem Moved.aes {s t : State} (h : Moved s t) : t.aes = s.aes := by rw [h.rest]
theorem Moved.zlib {s t : State} (h : Moved s t) : t.zlib = s.zlib := by rw [h.rest]
theorem Moved.irqLine {s t : State} (h : Moved s t) : t.irqLine = s.irqLine := by rw [h.rest]
theorem Moved.pending {s t : State} (h : Moved s t) : t.pending = s.pending := by rw [h.rest]
theorem Moved.responses {s t : State} (h : Moved s t) : t.responses = s.responses := by rw [h.rest]
theorem Moved.phase {s t : State} (h : Moved s t) : t.phase = s.phase := by rw [h.rest]
theorem Moved.cur {s t : State} (h : Moved s t) : t.cur = s.cur := by rw [h.rest]
theorem Moved.freeCount {s t : State} (h : Moved s t) : t.freeCount = s.freeCount := by rw [h.rest]

theorem Moved.serves {s t : State} (h : Moved s t) (mt : MemType) (a n : Nat) : t.serves mt a n = s.serves mt a n :=
  State.serves_congr h.params mt a n

/-- The clearing of the counter at the beginning of a transfer. -/
theorem xferClear_moved (s : State) : Moved s (xferClear s) := ⟨rfl, id⟩

@[simp] theorem xferClear_byteAt (s : State) (mt : MemType) (a : Nat) : (xferClear s).byteAt mt a = s.byteAt mt a := by
  cases mt <;> rfl
@[simp] theorem xferClear_bytesAt (s : State) (mt : MemType) (a n : Nat) :
    (xferClear s).bytesAt mt a n = s.bytesAt mt a n := by
  cases mt <;> rfl
@[simp] theorem xferClear_serves (s : State) (mt : MemType) (a n : Nat) :
    (xferClear s).serves mt a n = s.serves mt a n := rfl
@[simp] theorem xferClear_cbWrittenLast (s : State) : (xferClear s).cbWrittenLast = 0 := rfl

/-- Everything a session of other parameters does (R179, R201, log 25): an engine error, and nothing moved but the counter. -/
theorem sessionMismatch_raises (α : Type) (s : State) :
    ∃ t, (sessionMismatch s : Res α) = .raise .engineError t ∧ Moved s t ∧ t.cbWrittenLast = sessionErrorLeaves s ∧
      ∀ mt a, t.byteAt mt a = s.byteAt mt a := by
  unfold sessionMismatch sessionErrorLeaves
  cases s.params.sessionErrorCount
  · exact ⟨s, rfl, ⟨rfl, id⟩, rfl, fun _ _ => rfl⟩
  · exact ⟨xferClear s, rfl, xferClear_moved s, rfl, xferClear_byteAt s⟩

/-- Everything a write that succeeds does (R53 to R59). -/
theorem memWrite_ok {s t : State} {mt : MemType} {a : Nat} {v : Bytes} (h : memWrite s mt a v = .ok t) :
    s.serves mt a v.length = true ∧ Moved s t ∧
      t.cbWrittenLast = (if mt = .localMem then s.cbWrittenLast + BitVec.ofNat 32 v.length else s.cbWrittenLast) ∧
      (s.MemoryWf → ∀ m x, t.byteAt m x =
        if m = mt ∧ a ≤ x ∧ x < a + v.length then v.getD (x - a) 0 else s.byteAt m x) := by
  cases mt with
  | system => simp [memWrite] at h
  | code3 => simp [memWrite] at h
  | sb =>
    simp only [memWrite] at h
    split at h
    · rename_i hr
      rw [lsbInRange_iff] at hr
      obtain rfl := Except.ok.inj h
      refine ⟨by simp [State.serves, hr.1, hr.2], ⟨rfl, fun hw => ⟨Memory.wf_writeBytes hw.1 a v hr.2, hw.2⟩⟩, rfl, ?_⟩
      intro hw m x
      cases m with
      | sb => simpa [State.byteAt] using Memory.read_writeBytes hw.1 a v hr.2 x
      | _ => rfl
    · cases h
  | localMem =>
    simp only [memWrite, pspWrite] at h
    split at h
    · rename_i hr
      by_cases hm : mappedRange s.params a v.length = true
      · simp only [hm, if_true] at h
        obtain rfl := Except.ok.inj h
        refine ⟨?_, ⟨rfl, fun hw => ⟨hw.1, Memory.wf_writeBytes hw.2 a v hr⟩⟩, rfl, ?_⟩
        · simp only [State.serves, hm, Bool.and_true, Bool.or_eq_true, decide_eq_true_eq, addrLimit] at hr ⊢
          exact .inr hr
        · intro hw m x
          cases m with
          | localMem => simpa [State.byteAt] using Memory.read_writeBytes hw.2 a v hr x
          | _ => rfl
      · simp [hm] at h
    · cases h

/-- A served write succeeds. -/
theorem memWrite_of_serves {s : State} {mt : MemType} {a : Nat} {v : Bytes} (hv : v ≠ [])
    (h : s.serves mt a v.length = true) : ∃ t, memWrite s mt a v = .ok t := by
  have hn : v.length ≠ 0 := by simpa using hv
  cases mt with
  | system => simp [State.serves, hv] at h
  | code3 => simp [State.serves, hv] at h
  | sb =>
    simp only [State.serves, Bool.or_eq_true, Bool.and_eq_true, decide_eq_true_eq, beq_iff_eq, hn, false_or] at h
    exact ⟨s.setLsb (s.lsb.writeBytes a v), by simp [memWrite, (lsbInRange_iff a v.length).2 h]⟩
  | localMem =>
    simp only [State.serves, Bool.or_eq_true, Bool.and_eq_true, decide_eq_true_eq, beq_iff_eq, hn, false_or] at h
    have h1 : a + v.length ≤ addrLimit := h.1
    exact ⟨(s.setLocal (s.localMem.writeBytes a v)).setWritten (s.cbWrittenLast + BitVec.ofNat 32 v.length),
      by simp [memWrite, pspWrite, h1, h.2]⟩

/-! ## The transfer context -/

/-- A read of the transfer context that answers (R62). -/
theorem xferRead_ok {x : Xfer} {n : Nat} {s : State} {p : Bytes × Xfer} (h : xferRead x n s = .ok p) :
    n ≤ x.rdLeft ∧ s.serves x.srcMt x.srcAddr n = true ∧ p.1 = s.bytesAt x.srcMt x.srcAddr n ∧
      p.2 = { x with srcAddr := x.srcAddr + n, rdLeft := x.rdLeft - n } := by
  simp only [xferRead] at h
  split at h
  · split at h
    · rename_i hn _ _ hv
      obtain rfl := Except.ok.inj h
      obtain ⟨h1, h2⟩ := memRead_ok hv
      exact ⟨hn, h1, h2, rfl⟩
    · cases h
  · cases h

theorem xferRead_of_serves {x : Xfer} {n : Nat} {s : State} (hn : n ≠ 0) (hl : n ≤ x.rdLeft)
    (h : s.serves x.srcMt x.srcAddr n = true) :
    xferRead x n s =
      .ok (s.bytesAt x.srcMt x.srcAddr n, { x with srcAddr := x.srcAddr + n, rdLeft := x.rdLeft - n }) := by
  simp [xferRead, hl, memRead_of_serves hn h]

/-- Whatever the outcome of a part of a command, its state satisfies `P`. -/
def Res.Ends {α : Type} (r : Res α) (P : State → Prop) : Prop :=
  match r with
  | .ok _ s => P s
  | .raise _ s => P s

theorem Res.Ends.mono {α : Type} {r : Res α} {P Q : State → Prop} (h : r.Ends P) (hpq : ∀ s, P s → Q s) : r.Ends Q := by
  cases r with
  | ok a s => exact hpq s h
  | raise k s => exact hpq s h

theorem Res.Ends.andThen {α β : Type} {r : Res α} {f : α → State → Res β} {P Q : State → Prop} (h : r.Ends P)
    (hpq : ∀ s, P s → Q s) (hf : ∀ a s, r = .ok a s → P s → (f a s).Ends Q) : (r.andThen f).Ends Q := by
  cases r with
  | ok a s => exact hf a s rfl h
  | raise k s => exact hpq s h

theorem Res.Ends.ofRead {α : Type} (s : State) (r : Except ErrKind α) {P : State → Prop} (h : P s) :
    (Res.ofRead s r).Ends P := by
  cases r with
  | ok a => exact h
  | error k => exact h

theorem xferWriteDown_moved (x : Xfer) (v : Bytes) (s : State) : (xferWriteDown x v s).Ends (Moved s) := by
  induction v generalizing x s with
  | nil => exact Moved.refl s
  | cons b t ih =>
    simp only [xferWriteDown]
    split
    · rename_i s1 h1
      exact (ih _ s1).mono fun u hu => (memWrite_ok h1).2.1.trans hu
    · exact Moved.refl s

/-- A write of the transfer context changes nothing but memory and the counter, whether it succeeds or raises (R63, R64). -/
theorem xferWrite_moved (x : Xfer) (v : Bytes) (s : State) : (xferWrite x v s).Ends (Moved s) := by
  simp only [xferWrite]
  split
  · split
    · exact xferWriteDown_moved x v s
    · split
      · rename_i s1 h1
        exact (memWrite_ok h1).2.1
      · exact Moved.refl s
  · exact Moved.refl s

theorem xferWriteSome_moved (x : Xfer) (v : Bytes) (s : State) : (xferWriteSome x v s).Ends (Moved s) := by
  simp only [xferWriteSome]
  split
  · exact Moved.refl s
  · exact xferWrite_moved x v s

/-- A forward write that is served and fits the budget succeeds (R63). -/
theorem xferWrite_forward {x : Xfer} {v : Bytes} {s : State} (hr : x.reverse = false) (hv : v ≠ [])
    (hf : x.fits v.length = true) (h : s.serves x.dstMt x.dstAddr v.length = true) :
    ∃ t, xferWrite x v s = .ok { x with dstAddr := x.dstAddr + v.length, wrLeft := x.spend v.length } t ∧
      memWrite s x.dstMt x.dstAddr v = .ok t := by
  obtain ⟨t, ht⟩ := memWrite_of_serves hv h
  exact ⟨t, by simp [xferWrite, hf, hr, ht], ht⟩

/-! ## The two ends of a command -/

@[simp] theorem retire_ok {α : Type} (a : α) (s : State) : retire (.ok a s : Res α) = .next (complete s) := rfl
@[simp] theorem retire_raise {α : Type} (k : ErrKind) (s : State) : retire (.raise k s : Res α) = .next (takeError k s) := rfl

/-- A command always ends in a next state: completed, or with its error taken. -/
theorem retire_next {α : Type} (r : Res α) {P : State → Prop} (h : r.Ends P) :
    ∃ u, P u ∧ (retire r = .next (complete u) ∨ ∃ k, retire r = .next (takeError k u)) := by
  cases r with
  | ok a s => exact ⟨s, h, .inl rfl⟩
  | raise k s => exact ⟨s, h, .inr ⟨k, rfl⟩⟩

section Ends
variable (s : State)

@[simp] theorem complete_lsb : (complete s).lsb = s.lsb := by simp [complete]
@[simp] theorem complete_localMem : (complete s).localMem = s.localMem := by simp [complete]
@[simp] theorem complete_sha : (complete s).sha = s.sha := by simp [complete]
@[simp] theorem complete_aes : (complete s).aes = s.aes := by simp [complete]
@[simp] theorem complete_zlib : (complete s).zlib = s.zlib := by simp [complete]
@[simp] theorem complete_cbWrittenLast : (complete s).cbWrittenLast = s.cbWrittenLast := by simp [complete]
@[simp] theorem complete_irqLine : (complete s).irqLine = s.irqLine := by simp [complete]
@[simp] theorem complete_params : (complete s).params = s.params := by simp [complete]
@[simp] theorem complete_pending : (complete s).pending = s.pending := by simp [complete]
@[simp] theorem complete_responses : (complete s).responses = s.responses := by simp [complete]
@[simp] theorem complete_phase : (complete s).phase = s.phase := by simp [complete]
@[simp] theorem complete_cur : (complete s).cur = s.cur := by simp [complete]
@[simp] theorem complete_freeCount : (complete s).freeCount = s.freeCount := by simp [complete]
@[simp] theorem complete_queue : (complete s).queue s.cur = (s.queue s.cur).succeeded s.params.bits := by simp [complete]
theorem complete_queue_ne {q : QId} (h : q ≠ s.cur) : (complete s).queue q = s.queue q := by simp [complete, h]

/-- The end of the access that ran a drain (R289, R293). -/
theorem finishAccess_draining {r : Reply} (h : s.phase = .draining r) :
    finishAccess s = respond (r.data (s.queue s.cur)) (s.setPhase .idle) := by
  simp [finishAccess, h]

/-- The error path, written out (R259, R260, R293). -/
theorem takeError_draining {r : Reply} (k : ErrKind) (h : s.phase = .draining r) :
    takeError k s =
      respond (r.data (((s.queue s.cur).failed s.params.bits s.params.statusError).stopped s.params.bits))
        ((s.setQueue s.cur (((s.queue s.cur).failed s.params.bits s.params.statusError).stopped s.params.bits)).setPhase .idle) := by
  rw [takeError, finishAccess_draining (r := r) _ (by simp [stopDrain, h])]
  simp [stopDrain]

@[simp] theorem respond_lsb (d : ReadData) : (respond d s).lsb = s.lsb := rfl
@[simp] theorem respond_localMem (d : ReadData) : (respond d s).localMem = s.localMem := rfl
@[simp] theorem respond_sha (d : ReadData) : (respond d s).sha = s.sha := rfl
@[simp] theorem respond_aes (d : ReadData) : (respond d s).aes = s.aes := rfl
@[simp] theorem respond_zlib (d : ReadData) : (respond d s).zlib = s.zlib := rfl
@[simp] theorem respond_cbWrittenLast (d : ReadData) : (respond d s).cbWrittenLast = s.cbWrittenLast := rfl
@[simp] theorem respond_irqLine (d : ReadData) : (respond d s).irqLine = irqLevel s := rfl
@[simp] theorem respond_params (d : ReadData) : (respond d s).params = s.params := rfl
@[simp] theorem respond_pending (d : ReadData) : (respond d s).pending = s.pending := rfl
@[simp] theorem respond_phase (d : ReadData) : (respond d s).phase = s.phase := rfl
@[simp] theorem respond_cur (d : ReadData) : (respond d s).cur = s.cur := rfl
@[simp] theorem respond_freeCount (d : ReadData) : (respond d s).freeCount = s.freeCount := rfl
@[simp] theorem respond_q0 (d : ReadData) : (respond d s).q0 = s.q0 := rfl
@[simp] theorem respond_q1 (d : ReadData) : (respond d s).q1 = s.q1 := rfl
@[simp] theorem respond_queue (d : ReadData) (q : QId) : (respond d s).queue q = s.queue q := by cases q <;> rfl
@[simp] theorem respond_responses (d : ReadData) :
    (respond d s).responses =
      { data := d, irq := { prio := irqPrio, devId := irqDevId, level := irqLevel s } } :: s.responses := rfl

end Ends

end Sys2Proof.Machine
end

