-- ==== Sys2Proof/Laws/PerInstr.lean ====
section
/-! SUPPORT. The statement made of every command as syntax, and its lemma per constructor: the encoder writes 32 bytes whose
`dw0` is in the command's row of the table (30_encoding.md R100, R115, R119). -/

namespace Sys2Proof.Laws

open Sys2Proof Sys2Proof.Machine

/-- Below bit 17 the mask of an ECC command keeps nothing. -/
theorem and_mask17 {x : Nat} (h : x < 2 ^ 17) : x &&& 0x00FE0000 = 0 := by
  apply Nat.eq_of_testBit_eq
  intro i
  rw [Nat.testBit_and, Nat.zero_testBit]
  by_cases hi : i < 17
  · rw [show (0x00FE0000 : Nat) = 2 ^ 17 * 0x7F by rfl, Nat.testBit_two_pow_mul]
    simp [Nat.not_le.2 hi]
  · rw [Nat.testBit_lt_two_pow (Nat.lt_of_lt_of_le h (Nat.pow_le_pow_right (by omega) (Nat.not_lt.1 hi)))]
    rfl

/-- The `dw0` of an ECC command: the bit count and the flags lie below the mask. -/
theorem ecc_dw0 (op bits : Nat) (fl : MsgFlags) (ho : op < 5) (hb : bits < 4096) :
    pack [(⟨3, 1⟩, fl.init.toNat), (⟨4, 1⟩, fl.eom.toNat), (⟨5, 15⟩, pack [(⟨12, 3⟩, op), (⟨0, 12⟩, bits)]), (⟨20, 4⟩, 7)] %
        256 ^ 4 &&& 0x00FE0000 = 0x00700000 + op * 2 ^ 17 := by
  have h3 : fl.init.toNat <<< 3 < 2 ^ 17 := by cases fl.init <;> decide
  have h4 : fl.eom.toNat <<< 4 < 2 ^ 17 := by cases fl.eom <;> decide
  have h5 : bits <<< 5 < 2 ^ 17 := by rw [Nat.shiftLeft_eq]; omega
  have hop : op <<< 17 ||| 7 <<< 20 < 2 ^ 32 ∧ (op <<< 17 ||| 7 <<< 20) &&& 0x00FE0000 = 0x00700000 + op * 2 ^ 17 := by
    have : ∀ o : Fin 5, o.val <<< 17 ||| 7 <<< 20 < 2 ^ 32 ∧
        (o.val <<< 17 ||| 7 <<< 20) &&& 0x00FE0000 = 0x00700000 + o.val * 2 ^ 17 := by decide
    exact this ⟨op, ho⟩
  have hw : pack [(⟨3, 1⟩, fl.init.toNat), (⟨4, 1⟩, fl.eom.toNat), (⟨5, 15⟩, pack [(⟨12, 3⟩, op), (⟨0, 12⟩, bits)]),
      (⟨20, 4⟩, 7)] = (fl.init.toNat <<< 3 ||| fl.eom.toNat <<< 4 ||| bits <<< 5) ||| (op <<< 17 ||| 7 <<< 20) := by
    simp only [pack, Nat.or_zero, Nat.shiftLeft_or_distrib, ← Nat.shiftLeft_add, Nat.shiftLeft_zero, Nat.or_assoc,
      Nat.or_left_comm (bits <<< 5)]
  have hl : fl.init.toNat <<< 3 ||| fl.eom.toNat <<< 4 ||| bits <<< 5 < 2 ^ 17 := Nat.or_lt_two_pow (Nat.or_lt_two_pow h3 h4) h5
  rw [hw, show 256 ^ 4 = 2 ^ 32 by rfl, Nat.mod_eq_of_lt (Nat.or_lt_two_pow (Nat.lt_trans hl (by decide)) hop.1), Nat.and_or_distrib_right,
    and_mask17 hl, hop.2, Nat.zero_or]

/-- The `dw0` of a command without a bit count: the flags at their four values. -/
theorem plain_dw0 (i : Instr) (l : List (BitField × Nat)) (e k m : Nat) (hl : i.functionFields Encoding.default = l)
    (he : i.engineCode Encoding.default = e)
    (h : ∀ a b : Bool, pack [(⟨3, 1⟩, a.toNat), (⟨4, 1⟩, b.toNat), (⟨5, 15⟩, pack l), (⟨20, 4⟩, e)] % 256 ^ 4 &&& k = m) :
    i.dw0 Encoding.default % 256 ^ 4 &&& k = m := by
  rw [Instr.dw0, hl, he]
  exact h i.flags.init i.flags.eom

/-- The encoder writes 32 bytes, and their `dw0` is in the command's row. -/
def EncodeForm.Statement (i : Instr) : Prop :=
  i.WellFormed → (encode i).length = 32 ∧ descWord (encode i) 0 &&& i.dw0Mask = i.dw0Match

/-- A descriptor with a `dw0` that the flags alone determine. -/
theorem encodeForm_plain (i : Instr) (src : Source) (dst key : Bytes) (he : encode i = encodeDesc Encoding.default i src dst key)
    (hd : dst.length = 8) (hk : key.length = 8) (h : i.dw0 Encoding.default % 256 ^ 4 &&& i.dw0Mask = i.dw0Match) :
    EncodeForm.Statement i := by
  intro _
  rw [he]
  exact ⟨length_encodeDesc _ _ _ hd hk, by rw [descWord_encodeDesc]; exact h⟩

namespace EncodeForm

theorem ptCopy (fl : MsgFlags) (src : Source) (dst : Place) : Statement (.ptCopy fl src dst) :=
  encodeForm_plain _ _ _ _ rfl (length_encodePlace _ _) length_encodeNoKey
    (plain_dw0 _ [(⟨0, 2⟩, 0), (⟨2, 3⟩, 0), (⟨5, 2⟩, 0)] 5 0x00F00FE0 0x00500000 rfl rfl (by decide))

theorem ptSwap256 (fl : MsgFlags) (src : Source) (dst : Place) : Statement (.ptSwap256 fl src dst) :=
  encodeForm_plain _ _ _ _ rfl (length_encodePlace _ _) length_encodeNoKey
    (plain_dw0 _ [(⟨0, 2⟩, 2), (⟨2, 3⟩, 0), (⟨5, 2⟩, 0)] 5 0x00F00FE0 0x00500040 rfl rfl (by decide))

theorem sha256 (fl : MsgFlags) (src : Source) (shaBits : Nat) : Statement (.sha256 fl src shaBits) :=
  encodeForm_plain _ _ _ _ rfl (length_encodeShaBits _) length_encodeNoKey
    (plain_dw0 _ [(⟨10, 4⟩, 3)] 3 0x00F78000 0x00318000 rfl rfl (by decide))

theorem sha384 (fl : MsgFlags) (src : Source) (shaBits : Nat) : Statement (.sha384 fl src shaBits) :=
  encodeForm_plain _ _ _ _ rfl (length_encodeShaBits _) length_encodeNoKey
    (plain_dw0 _ [(⟨10, 4⟩, 4)] 3 0x00F78000 0x00320000 rfl rfl (by decide))

theorem aes128EcbDec (fl : MsgFlags) (src : Source) (dst key : Place) : Statement (.aes128EcbDec fl src dst key) :=
  encodeForm_plain _ _ _ _ rfl (length_encodePlace _ _) (length_encodePlace _ _)
    (plain_dw0 _ [(⟨0, 7⟩, 0), (⟨7, 1⟩, 0), (⟨8, 5⟩, 0), (⟨13, 2⟩, 0)] 0 0x00FFFFE0 0x00000000 rfl rfl (by decide))

theorem aes128EcbEnc (fl : MsgFlags) (src : Source) (dst key : Place) : Statement (.aes128EcbEnc fl src dst key) :=
  encodeForm_plain _ _ _ _ rfl (length_encodePlace _ _) (length_encodePlace _ _)
    (plain_dw0 _ [(⟨0, 7⟩, 0), (⟨7, 1⟩, 1), (⟨8, 5⟩, 0), (⟨13, 2⟩, 0)] 0 0x00FFFFE0 0x00001000 rfl rfl (by decide))

theorem aes128CbcDec (fl : MsgFlags) (src : Source) (dst key : Place) : Statement (.aes128CbcDec fl src dst key) :=
  encodeForm_plain _ _ _ _ rfl (length_encodePlace _ _) (length_encodePlace _ _)
    (plain_dw0 _ [(⟨0, 7⟩, 0), (⟨7, 1⟩, 0), (⟨8, 5⟩, 1), (⟨13, 2⟩, 0)] 0 0x00FFFFE0 0x00002000 rfl rfl (by decide))

theorem aes128CbcEnc (fl : MsgFlags) (src : Source) (dst key : Place) : Statement (.aes128CbcEnc fl src dst key) :=
  encodeForm_plain _ _ _ _ rfl (length_encodePlace _ _) (length_encodePlace _ _)
    (plain_dw0 _ [(⟨0, 7⟩, 0), (⟨7, 1⟩, 1), (⟨8, 5⟩, 1), (⟨13, 2⟩, 0)] 0 0x00FFFFE0 0x00003000 rfl rfl (by decide))

theorem aes256EcbDec (fl : MsgFlags) (src : Source) (dst key : Place) : Statement (.aes256EcbDec fl src dst key) :=
  encodeForm_plain _ _ _ _ rfl (length_encodePlace _ _) (length_encodePlace _ _)
    (plain_dw0 _ [(⟨0, 7⟩, 0), (⟨7, 1⟩, 0), (⟨8, 5⟩, 0), (⟨13, 2⟩, 2)] 0 0x00FFFFE0 0x00080000 rfl rfl (by decide))

theorem aes256EcbEnc (fl : MsgFlags) (src : Source) (dst key : Place) : Statement (.aes256EcbEnc fl src dst key) :=
  encodeForm_plain _ _ _ _ rfl (length_encodePlace _ _) (length_encodePlace _ _)
    (plain_dw0 _ [(⟨0, 7⟩, 0), (⟨7, 1⟩, 1), (⟨8, 5⟩, 0), (⟨13, 2⟩, 2)] 0 0x00FFFFE0 0x00081000 rfl rfl (by decide))

theorem aes256CbcDec (fl : MsgFlags) (src : Source) (dst key : Place) : Statement (.aes256CbcDec fl src dst key) :=
  encodeForm_plain _ _ _ _ rfl (length_encodePlace _ _) (length_encodePlace _ _)
    (plain_dw0 _ [(⟨0, 7⟩, 0), (⟨7, 1⟩, 0), (⟨8, 5⟩, 1), (⟨13, 2⟩, 2)] 0 0x00FFFFE0 0x00082000 rfl rfl (by decide))

theorem aes256CbcEnc (fl : MsgFlags) (src : Source) (dst key : Place) : Statement (.aes256CbcEnc fl src dst key) :=
  encodeForm_plain _ _ _ _ rfl (length_encodePlace _ _) (length_encodePlace _ _)
    (plain_dw0 _ [(⟨0, 7⟩, 0), (⟨7, 1⟩, 1), (⟨8, 5⟩, 1), (⟨13, 2⟩, 2)] 0 0x00FFFFE0 0x00083000 rfl rfl (by decide))

theorem rsaModexp2048 (fl : MsgFlags) (src : Source) (dst key : Place) : Statement (.rsaModexp2048 fl src dst key) :=
  encodeForm_plain _ _ _ _ rfl (length_encodePlace _ _) (length_encodePlace _ _)
    (plain_dw0 _ [(⟨0, 3⟩, 0), (⟨3, 12⟩, 256)] 4 0x00FFFFE0 0x00410000 rfl rfl (by decide))

theorem rsaModexp4096 (fl : MsgFlags) (src : Source) (dst key : Place) : Statement (.rsaModexp4096 fl src dst key) :=
  encodeForm_plain _ _ _ _ rfl (length_encodePlace _ _) (length_encodePlace _ _)
    (plain_dw0 _ [(⟨0, 3⟩, 0), (⟨3, 12⟩, 512)] 4 0x00FFFFE0 0x00420000 rfl rfl (by decide))

theorem eccMulf (fl : MsgFlags) (src : Source) (dst : Place) (bits : Nat) : Statement (.eccMulf fl src dst bits) := by
  intro h
  have hb : bits < 4096 := by
    simp only [Instr.WellFormed, Instr.wellFormed, decide_eq_true_eq] at h
    exact h.2.2
  exact encodeForm_plain _ _ _ _ rfl (length_encodePlace _ _) length_encodeNoKey (ecc_dw0 0 bits fl (by decide) hb) h

theorem eccAddf (fl : MsgFlags) (src : Source) (dst : Place) (bits : Nat) : Statement (.eccAddf fl src dst bits) := by
  intro h
  have hb : bits < 4096 := by
    simp only [Instr.WellFormed, Instr.wellFormed, decide_eq_true_eq] at h
    exact h.2.2
  exact encodeForm_plain _ _ _ _ rfl (length_encodePlace _ _) length_encodeNoKey (ecc_dw0 1 bits fl (by decide) hb) h

theorem eccInvf (fl : MsgFlags) (src : Source) (dst : Place) (bits : Nat) : Statement (.eccInvf fl src dst bits) := by
  intro h
  have hb : bits < 4096 := by
    simp only [Instr.WellFormed, Instr.wellFormed, decide_eq_true_eq] at h
    exact h.2.2
  exact encodeForm_plain _ _ _ _ rfl (length_encodePlace _ _) length_encodeNoKey (ecc_dw0 2 bits fl (by decide) hb) h

theorem eccMulc (fl : MsgFlags) (src : Source) (dst : Place) (bits : Nat) : Statement (.eccMulc fl src dst bits) := by
  intro h
  have hb : bits < 4096 := by
    simp only [Instr.WellFormed, Instr.wellFormed, decide_eq_true_eq] at h
    exact h.2.2
  exact encodeForm_plain _ _ _ _ rfl (length_encodePlace _ _) length_encodeNoKey (ecc_dw0 3 bits fl (by decide) hb) h

theorem eccMuladdc (fl : MsgFlags) (src : Source) (dst : Place) (bits : Nat) : Statement (.eccMuladdc fl src dst bits) := by
  intro h
  have hb : bits < 4096 := by
    simp only [Instr.WellFormed, Instr.wellFormed, decide_eq_true_eq] at h
    exact h.2.2
  exact encodeForm_plain _ _ _ _ rfl (length_encodePlace _ _) length_encodeNoKey (ecc_dw0 4 bits fl (by decide) hb) h

theorem zlibInflate (fl : MsgFlags) (src : Source) (dst : Place) : Statement (.zlibInflate fl src dst) :=
  encodeForm_plain _ _ _ _ rfl (length_encodePlace _ _) length_encodeNoKey
    (plain_dw0 _ [] 6 0x00F00000 0x00600000 rfl rfl (by decide))

end EncodeForm

end Sys2Proof.Laws
end

