-- ==== Sys2Proof/Laws/Sha.lean ====
section
/-! SUPPORT. The count that a SHA command leaves (42_sha.md R180 (e), log 25). -/

namespace Sys2Proof.Machine

/-- A reverse write to the LSB counts nothing, whether it succeeds or raises (R54, R64). -/
theorem xferWriteDown_lsb_count (x : Xfer) (hx : x.dstMt = .sb) (v : Bytes) (s : State) :
    (xferWriteDown x v s).Ends fun u => u.cbWrittenLast = s.cbWrittenLast := by
  induction v generalizing x s with
  | nil => exact rfl
  | cons b t ih =>
    simp only [xferWriteDown]
    split
    · rename_i s1 h1
      have h := (memWrite_ok h1).2.2.1
      rw [hx, if_neg (by decide)] at h
      exact (ih { x with dstAddr := x.dstAddr - 1, wrLeft := x.spend 1 } hx s1).mono fun u hu => hu.trans h
    · exact rfl

/-- Reading the message leaves the destination of the transfer alone (R62). -/
theorem shaUpdate_dst {fuel : Nat} {x : Xfer} {msg : Bytes} {s : State} {p : Bytes × Xfer}
    (h : shaUpdate fuel x msg s = .ok p) : p.2.dstMt = x.dstMt ∧ p.2.reverse = x.reverse := by
  induction fuel generalizing x msg with
  | zero => cases h; exact ⟨rfl, rfl⟩
  | succ n ih =>
    simp only [shaUpdate] at h
    split at h
    · cases h; exact ⟨rfl, rfl⟩
    · split at h
      · rename_i q hq
        have e := ih h
        rw [(xferRead_ok hq).2.2.2] at e
        exact e
      · cases h

/-- The close of a SHA command counts nothing: it writes the LSB alone (R173). -/
theorem shaClose_count (t : ShaType) (eom : Bool) (msg : Bytes) {x : Xfer} (hx : x.dstMt = .sb) (hr : x.reverse = true)
    (s : State) : (shaClose t eom msg x s).Ends fun u => u.cbWrittenLast = s.cbWrittenLast := by
  unfold shaClose
  split
  · refine Res.Ends.andThen (P := fun u => u.cbWrittenLast = s.cbWrittenLast) ?_ (fun _ h => h) fun _ _ _ h => h
    simp only [xferWrite, hr, if_true]
    split
    · exact xferWriteDown_lsb_count x hx _ s
    · exact rfl
  · exact rfl

/-- R180 (e) whole: every SHA command that passed phase 1 leaves the count 0, whatever its outcome; under the reading `kept` of
log 25 all but one that finds a session of the other type. -/
theorem shaCommand_count (t : ShaType) (fl : MsgFlags) (src : Source) (s : State)
    (h : s.params.sessionErrorCount = .cleared ∨ ∀ x, s.sha = some x → x.type = t) :
    (shaCommand t fl src s).Ends fun u => u.cbWrittenLast = 0 := by
  have hraise : ∀ r : Res Xfer, (r.Ends fun u => u.cbWrittenLast = 0) →
      (Res.onRaise (fun s => s.setSha none) r).Ends fun u => u.cbWrittenLast = 0 := by
    intro r hr; cases r <;> exact hr
  have hrun : ∀ msg, ((Res.ofRead (xferClear s)
      (shaUpdate src.cbSrc (xferOf src (shaDest src) (some (shaLen t)) true) msg (xferClear s))).andThen
        fun p s1 => shaClose t fl.eom p.1 p.2 s1).Ends fun u => u.cbWrittenLast = 0 := by
    intro msg
    cases hu : shaUpdate src.cbSrc (xferOf src (shaDest src) (some (shaLen t)) true) msg (xferClear s) with
    | ok p => exact shaClose_count t fl.eom p.1 (shaUpdate_dst hu).1 (shaUpdate_dst hu).2 (xferClear s)
    | error k => exact rfl
  refine hraise _ ?_
  unfold shaLookup
  split
  · exact hrun []
  · rename_i sess hs
    split
    · exact hrun sess.msg
    · rename_i hne
      have hc : s.params.sessionErrorCount = .cleared := h.resolve_right fun e => hne (e sess hs)
      obtain ⟨u, hu, -, hw, -⟩ := sessionMismatch_raises Bytes s
      rw [hu]
      exact hw.trans (if_pos hc)

end Sys2Proof.Machine
end

