-- ==== Sys2Proof/Tests/Slice0.lean ====
section
/-! SUPPORT. Small tests: well-formedness, descriptors written out from the encoding, one command each from the vectors of
95_test_vectors.md, and for every statement of the certificate that has hypotheses a state that meets them. -/

set_option Elab.async false

namespace Sys2Proof.Tests

open Sys2Proof Sys2Proof.Machine

/-! ## Helpers -/

/-- The `n` bytes written in a hexadecimal numeral, in the order in which they are written. -/
def hex (n v : Nat) : Bytes := toBe v n

/-- A queue after reset with the default bits. -/
def queueReset : Queue := Queue.start QueueBits.default

/-- No flag, `init`, `eom`, both. -/
def f0 : MsgFlags := ⟨false, false⟩
def fI : MsgFlags := ⟨true, false⟩
def fE : MsgFlags := ⟨false, true⟩
def fIE : MsgFlags := ⟨true, true⟩

/-- A source in LOCAL memory and one in the LSB, context id `c`. -/
def src (a n : Nat) (c : Nat := 0) : Source := ⟨n, a, .localMem, c, false⟩
def sbSrc (a n : Nat) (c : Nat := 0) : Source := ⟨n, a, .sb, c, false⟩
def loc (a : Nat) : Place := ⟨a, .localMem⟩
def sb (a : Nat) : Place := ⟨a, .sb⟩

/-- Queue 0 draining, one descriptor queued at 0x1000. -/
def base : State :=
  { State.reset with
    q0 := { queueReset with control := 0, head := 0x1000, tail := 0x1020, enabled := true }
    phase := .draining .write }

/-- A memory with the bytes `b` put from `a` upward, in canonical form. -/
def patched (m : Memory) (a : Nat) (b : Bytes) : Memory where
  cells := m.cells.filter (fun c => c.1 < a) ++
    (((List.range b.length).map (a + ·)).zip b).filter (fun c => c.2 != 0) ++ m.cells.filter (fun c => a + b.length ≤ c.1)

/-- Bytes put into LOCAL memory, and into the LSB. -/
def putLocal (a : Nat) (b : Bytes) (s : State) : State := { s with localMem := patched s.localMem a b }
def putLsb (a : Nat) (b : Bytes) (s : State) : State := { s with lsb := patched s.lsb a b }

/-- The state after a command, `State.reset` where there is none. -/
def after (i : Instr) (s : State) : State :=
  match exec i s with
  | .next t => t
  | .fault _ => State.reset
  | .refused _ => State.reset

/-- Bytes put at a place. -/
def put (d : Place) (b : Bytes) (s : State) : State := if d.mt = .sb then putLsb d.addr b s else putLocal d.addr b s

/-- The command advanced `head` and wrote these bytes at this place, nothing else. -/
def gives (i : Instr) (s : State) (d : Place) (b : Bytes) : Bool :=
  (after i s).q0.head == 0x1020 && (after i s).lsb == (put d b s).lsb && (after i s).localMem == (put d b s).localMem

/-- The command failed and left the memories of `m`. -/
def fails (i : Instr) (s m : State) : Bool :=
  (after i s).q0.status == 1 && (after i s).lsb == m.lsb && (after i s).localMem == m.localMem

/-! ## Well-formedness: an ill-formed operand of each kind -/

theorem test_wf_all_ones :
    (Instr.aes256CbcDec fIE ⟨0xFFFFFFFF, 0xFFFFFFFFFFFF, .code3, 127, true⟩ ⟨0xFFFFFFFFFFFF, .code3⟩
      ⟨0xFFFFFFFFFFFF, .code3⟩).WellFormed := by decide
theorem test_wf_cbSrc : ¬ (Instr.ptCopy f0 (src 0 0x100000000) (loc 0)).WellFormed := by decide
theorem test_wf_srcAddr : ¬ (Instr.ptSwap256 f0 (src 0x1000000000000 0) (loc 0)).WellFormed := by decide
theorem test_wf_ctx : ¬ (Instr.sha256 f0 (src 0 0 128) 0).WellFormed := by decide
theorem test_wf_shaBits : ¬ (Instr.sha384 f0 (src 0 0) 0x10000000000000000).WellFormed := by decide
theorem test_wf_dst : ¬ (Instr.zlibInflate f0 (src 0 0) (loc 0x1000000000000)).WellFormed := by decide
theorem test_wf_key : ¬ (Instr.aes128EcbEnc f0 (src 0 0) (loc 0) (loc 0x1000000000000)).WellFormed := by decide
theorem test_wf_rsa_key : ¬ (Instr.rsaModexp2048 f0 (src 0 0) (loc 0) (loc 0x1000000000000)).WellFormed := by decide
theorem test_wf_bits : ¬ (Instr.eccMulf f0 (src 0 0) (loc 0) 4096).WellFormed := by decide

/-! ## Decoding: one descriptor of each command, its words written out from 30_encoding.md R100 to R113 -/

theorem test_dec_ptCopy :
    decode (hex 32 0x0000500010000000002000000000020000300000000002000000000000000000) =
      .ok (.ptCopy f0 (src 0x2000 16) (loc 0x3000)) := by decide +kernel
/-- The ignored bits of V11: `dw0 = 0xFF500007`, context id 127, fixed bit, high addresses. -/
theorem test_dec_ignored_bits :
    decode (hex 32 0x070050FF04000000002000003412FE8100300000FFFFFEFF0000000000000000) =
      .ok (.ptCopy f0 ⟨4, 0x123400002000, .localMem, 127, true⟩ (loc 0xFFFF00003000)) := by decide +kernel
theorem test_dec_ptSwap256 :
    decode (hex 32 0x4000500020000000C00000000000010000300000000002000000000000000000) =
      .ok (.ptSwap256 f0 (sbSrc 0xC0 32) (loc 0x3000)) := by decide +kernel
theorem test_dec_sha256 :
    decode (hex 32 0x1080310003000000002000000000060018000000000000000000000000000000) =
      .ok (.sha256 fE (src 0x2000 3 1) 24) := by decide +kernel
theorem test_dec_sha384 :
    decode (hex 32 0x10003200030000000020000000000A0018000000010000000000000000000000) =
      .ok (.sha384 fE (src 0x2000 3 2) 0x100000018) := by decide +kernel
theorem test_dec_aes128EcbDec :
    decode (hex 32 0x0000000010000000002000000000020000300000000002000010000000000200) =
      .ok (.aes128EcbDec f0 (src 0x2000 16) (loc 0x3000) (loc 0x1000)) := by decide +kernel
theorem test_dec_aes128EcbEnc :
    decode (hex 32 0x1810000010000000002000000000020000300000000002000010000000000200) =
      .ok (.aes128EcbEnc fIE (src 0x2000 16) (loc 0x3000) (loc 0x1000)) := by decide +kernel
theorem test_dec_aes128CbcDec :
    decode (hex 32 0x1820000010000000002000000000020000300000000002000010000000000200) =
      .ok (.aes128CbcDec fIE (src 0x2000 16) (loc 0x3000) (loc 0x1000)) := by decide +kernel
theorem test_dec_aes128CbcEnc :
    decode (hex 32 0x18300000200000000020000000002A0000300000000002000010000000000200) =
      .ok (.aes128CbcEnc fIE (src 0x2000 32 10) (loc 0x3000) (loc 0x1000)) := by decide +kernel
theorem test_dec_aes256EcbDec :
    decode (hex 32 0x0800080010000000002000000000020000300000000002004000000000000100) =
      .ok (.aes256EcbDec fI (src 0x2000 16) (loc 0x3000) (sb 0x40)) := by decide +kernel
theorem test_dec_aes256EcbEnc :
    decode (hex 32 0x1810080010000000002000000000020000300000000002004000000000000100) =
      .ok (.aes256EcbEnc fIE (src 0x2000 16) (loc 0x3000) (sb 0x40)) := by decide +kernel
theorem test_dec_aes256CbcDec :
    decode (hex 32 0x18200800100000000020000000000E0000300000000002004000000000000100) =
      .ok (.aes256CbcDec fIE (src 0x2000 16 3) (loc 0x3000) (sb 0x40)) := by decide +kernel
theorem test_dec_aes256CbcEnc :
    decode (hex 32 0x18300800100000000020000000000E0000300000000002004000000000000100) =
      .ok (.aes256CbcEnc fIE (src 0x2000 16 3) (loc 0x3000) (sb 0x40)) := by decide +kernel
theorem test_dec_rsaModexp2048 :
    decode (hex 32 0x0000410000020000002000000000020000400000000002000030000000000200) =
      .ok (.rsaModexp2048 f0 (src 0x2000 512) (loc 0x4000) (loc 0x3000)) := by decide +kernel
theorem test_dec_rsaModexp4096 :
    decode (hex 32 0x0000420000040000002000000000020000400000000002000030000000000200) =
      .ok (.rsaModexp4096 f0 (src 0x2000 1024) (loc 0x4000) (loc 0x3000)) := by decide +kernel
theorem test_dec_eccMulf :
    decode (hex 32 0x00307000D8000000002000000000020000300000000002000000000000000000) =
      .ok (.eccMulf f0 (src 0x2000 216) (loc 0x3000) 384) := by decide +kernel
theorem test_dec_eccAddf :
    decode (hex 32 0xE0FF7300D8000000002000000000020000300000000002000000000000000000) =
      .ok (.eccAddf f0 (src 0x2000 216) (loc 0x3000) 4095) := by decide +kernel
theorem test_dec_eccInvf :
    decode (hex 32 0x0030740090000000002000000000020000300000000002000000000000000000) =
      .ok (.eccInvf f0 (src 0x2000 144) (loc 0x3000) 384) := by decide +kernel
theorem test_dec_eccMulc :
    decode (hex 32 0x0030760068010000002000000000020000300000000002000000000000000000) =
      .ok (.eccMulc f0 (src 0x2000 360) (loc 0x3000) 384) := by decide +kernel
theorem test_dec_eccMuladdc :
    decode (hex 32 0x0030780040020000002000000000020000300000000002000000000000000000) =
      .ok (.eccMuladdc f0 (src 0x2000 576) (loc 0x3000) 384) := by decide +kernel
theorem test_dec_zlibInflate :
    decode (hex 32 0x180060000B000000002000000000020000300000000002000000000000000000) =
      .ok (.zlibInflate fIE (src 0x2000 11) (loc 0x3000)) := by decide +kernel
/-- The number form of the same descriptor: the host's word, bit 0 the least significant of `dw0`; V71's zero word. -/
theorem test_dec_tableWord : decodeTableWord 32 0x00500000 =
    some (.ptCopy f0 ⟨0, 0, .system, 0, false⟩ ⟨0, .system⟩) := by decide +kernel
/-- V6, V25, V35, V44, V53, V70: rejected function values and engines. -/
theorem test_dec_rejects :
    [0x00500180, 0x00500080, 0x00500020, 0x00500060, 0x00500400, 0x00500800, 0x00328010, 0x00308010, 0x00300010, 0x00040018,
      0x000C0018, 0x00004018, 0x0003E018, 0x00000038, 0x00000FF8, 0x00408000, 0x00410020, 0x007A3000, 0x007C3000, 0x007E3000,
      0x00100000, 0x00200000, 0x00800000, 0x00900000, 0x00F00000].all (fun w => (decodeTableWord 32 w).isNone) = true := by
  decide +kernel

/-! ## One command each (95_test_vectors.md) -/

/-- `00 01 02 … ` at 0x2000 (64 bytes) for PASSTHROUGH. -/
def ramp (n : Nat) : Bytes := (List.range n).map (BitVec.ofNat 8)
def pt : State := putLocal 0x2000 (ramp 64) base

/-- T12. -/
theorem test_ptCopy : gives (.ptCopy f0 (src 0x2000 16) (loc 0x3000)) pt (loc 0x3000) (ramp 16) = true := by decide +kernel
/-- V8: the single write to the LSB is refused whole. -/
theorem test_ptCopy_lsb_edge : fails (.ptCopy f0 (src 0x2000 32) (sb 4090)) pt pt = true := by decide +kernel
/-- V9: in place. -/
theorem test_ptSwap256 :
    gives (.ptSwap256 f0 (src 0x2000 32) (loc 0x2010)) pt (loc 0x2010) (ramp 32).reverse = true := by
  decide +kernel
/-- V5. -/
theorem test_ptSwap256_length :
    fails (.ptSwap256 f0 (src 0x2000 31) (loc 0x3000)) { pt with cbWrittenLast := 77 } pt = true := by decide +kernel

def abc : State := putLocal 0x2000 (hex 3 0x616263) base

/-- T14. -/
theorem test_sha256 : gives (.sha256 fE (src 0x2000 3 1) 24) abc (sb 32)
    (hex 32 0xAD1500F261FF10B49C7A1796A36103B02322AE5DDE404141EACF018FBF1678BA) = true := by decide +kernel
/-- V22. -/
theorem test_sha384 : gives (.sha384 fE (src 0x2000 3 2) 24) abc (sb 64)
    (hex 48 0xA725C834A1ECBA5823CCE7A12B078680ED5BFF435A608B1A63D1DE0EAB322C270750C69A693DA0B58B5EA3453F7500CB) = true := by
  decide +kernel
/-- V23: the digest does not fit behind slot 127. -/
theorem test_sha384_slot127 : fails (.sha384 fE (src 0x2000 3 127) 24) abc abc = true := by decide +kernel
/-- V24: a session of the other type. -/
theorem test_sha384_type :
    fails (.sha384 fE (src 0x2000 3 2) 24) { abc with sha := some ⟨.sha256, [0x61]⟩ } abc = true := by decide +kernel

/-- Key and IV of T15 in slots 2 and 3, two ciphertext blocks at 0x2000. -/
def f26 : State :=
  putLsb 96 (ramp 16).reverse (putLsb 64 (hex 32 0xF4DF1409A310982DD708613B072C351F81777D85F0AE732BBE71CA1510EB3D60)
    (putLocal 0x2000
      (hex 32 0xF58C4C04D6E5F1BA779EABFB5F7BFBD69CFC4E967EDB808D679F777BC6702C7D) base))

/-- T15. -/
theorem test_aes256CbcDec : gives (.aes256CbcDec fIE (src 0x2000 16 3) (loc 0x3000) (sb 0x40)) f26 (loc 0x3000)
    (hex 16 0x6BC1BEE22E409F96E93D7E117393172A) = true := by decide +kernel
/-- V32: a ragged first part leaves four pending bytes. -/
theorem test_aes256CbcDec_ragged :
    (after (.aes256CbcDec fI (src 0x2000 20 3) (loc 0x3000) (sb 0x40)) f26).aes.map (·.pend) = some (hex 4 0x9CFC4E96) := by
  decide +kernel
/-- The converse of T15. -/
theorem test_aes256CbcEnc :
    gives (.aes256CbcEnc fIE (src 0x2000 16 3) (loc 0x3000) (sb 0x40))
      (putLocal 0x2000 (hex 16 0x6BC1BEE22E409F96E93D7E117393172A) f26) (loc 0x3000)
      (hex 16 0xF58C4C04D6E5F1BA779EABFB5F7BFBD6) = true := by decide +kernel

/-- Key of V33 at 0x1000, IV in slot 10, P1 P2 at 0x2000. -/
def f21 : State :=
  putLsb 320 (ramp 16).reverse (putLocal 0x1000 (hex 16 0x3C4FCF098815F7ABA6D2AE2816157E2B)
    (putLocal 0x2000 (hex 32 0x6BC1BEE22E409F96E93D7E117393172AAE2D8A571E03AC9C9EB76FAC45AF8E51) base))

/-- V33. -/
theorem test_aes128CbcEnc : gives (.aes128CbcEnc fIE (src 0x2000 32 10) (loc 0x3000) (loc 0x1000)) f21 (loc 0x3000)
    (hex 32 0x7649ABAC8119B246CEE98E9B12E9197D5086CB9B507219EE95DB113A917678B2) = true := by decide +kernel
/-- V33 back. -/
theorem test_aes128CbcDec :
    gives (.aes128CbcDec fIE (src 0x2000 32 10) (loc 0x3000) (loc 0x1000))
      (putLocal 0x2000 (hex 32 0x7649ABAC8119B246CEE98E9B12E9197D5086CB9B507219EE95DB113A917678B2) f21) (loc 0x3000)
      (hex 32 0x6BC1BEE22E409F96E93D7E117393172AAE2D8A571E03AC9C9EB76FAC45AF8E51) = true := by decide +kernel
/-- V34: the whole block is written, then the message is ragged. -/
theorem test_aes128EcbEnc : fails (.aes128EcbEnc fIE (src 0x2000 20) (loc 0x3000) (loc 0x1000)) f21
    (putLocal 0x3000 (hex 16 0x3AD77BB40D7A3660A89ECAF32466EF97) f21) = true := by decide +kernel
/-- V37: a session starts without `init`. -/
theorem test_aes128EcbEnc_noInit : gives (.aes128EcbEnc fE (src 0x2000 16) (loc 0x3000) (loc 0x1000)) f21 (loc 0x3000)
    (hex 16 0x3AD77BB40D7A3660A89ECAF32466EF97) = true := by decide +kernel
/-- V34 back. -/
theorem test_aes128EcbDec :
    gives (.aes128EcbDec fIE (src 0x2000 16) (loc 0x3000) (loc 0x1000))
      (putLocal 0x2000 (hex 16 0x3AD77BB40D7A3660A89ECAF32466EF97) f21) (loc 0x3000)
      (hex 16 0x6BC1BEE22E409F96E93D7E117393172A) = true := by decide +kernel
/-- V71: the all-zero descriptor fetches a key from SYSTEM. -/
theorem test_aes128EcbDec_zero :
    fails (.aes128EcbDec f0 ⟨0, 0, .system, 0, false⟩ ⟨0, .system⟩ ⟨0, .system⟩) f21 f21 = true := by decide +kernel

/-- The key and the block of the 256-bit example of 49_reference_algorithms.md. -/
def k256 : State :=
  putLocal 0x1000 (ramp 32).reverse (putLocal 0x2000 (hex 16 0x00112233445566778899AABBCCDDEEFF) base)

theorem test_aes256EcbEnc : gives (.aes256EcbEnc fIE (src 0x2000 16) (loc 0x3000) (loc 0x1000)) k256 (loc 0x3000)
    (hex 16 0x8EA2B7CA516745BFEAFC49904B496089) = true := by decide +kernel
theorem test_aes256EcbDec :
    gives (.aes256EcbDec fIE (src 0x2000 16) (loc 0x3000) (loc 0x1000))
      (putLocal 0x2000 (hex 16 0x8EA2B7CA516745BFEAFC49904B496089) k256) (loc 0x3000)
      (hex 16 0x00112233445566778899AABBCCDDEEFF) = true := by decide +kernel

/-- Modulus, message and exponent of an RSA command, each in `size` bytes. -/
def rsa (size n m e : Nat) : State :=
  putLocal 0x3000 (toLe e size) (putLocal 0x2000 (toLe n size ++ toLe m size) base)

/-- V41. -/
theorem test_rsaModexp2048 : gives (.rsaModexp2048 f0 (src 0x2000 512) (loc 0x4000) (loc 0x3000)) (rsa 256 3233 65 17)
    (loc 0x4000) (hex 2 0xE60A ++ List.replicate 254 0) = true := by decide +kernel
/-- V42: the message is not below the modulus. -/
theorem test_rsaModexp2048_message : fails (.rsaModexp2048 f0 (src 0x2000 512) (loc 0x4000) (loc 0x3000))
    (rsa 256 3233 3233 17) (rsa 256 3233 3233 17) = true := by decide +kernel
/-- V45. -/
theorem test_rsaModexp4096 : gives (.rsaModexp4096 f0 (src 0x2000 1024) (loc 0x4000) (loc 0x3000)) (rsa 512 3233 65 17)
    (loc 0x4000) (hex 2 0xE60A ++ List.replicate 510 0) = true := by decide +kernel
/-- V44, for the larger size: a source one byte short. -/
theorem test_rsaModexp4096_short : fails (.rsaModexp4096 f0 (src 0x2000 1023) (loc 0x4000) (loc 0x3000))
    (rsa 512 3233 65 17) (rsa 512 3233 65 17) = true := by decide +kernel

/-- The numbers of an ECC block, the prime first. -/
def ecc (l : List Nat) : State := putLocal 0x2000 ((p384Prime :: l).flatMap (toLe · 72)) base

/-- V50. -/
theorem test_eccMulf : gives (.eccMulf f0 (src 0x2000 216) (loc 0x1000) 384) (ecc [0x1234567890ABCDEF, p384Prime - 1])
    (loc 0x1000)
    (hex 20 0x1032546F88A9CBEDFFFFFFFFFEFFFFFFFEFFFFFF ++ List.replicate 28 0xFF ++ List.replicate 24 0) = true := by
  decide +kernel
/-- V53: 577 bits. -/
theorem test_eccMulf_bits :
    fails (.eccMulf f0 (src 0x2000 216) (loc 0x1000) 577) { ecc [2, 3] with cbWrittenLast := 77 } (ecc [2, 3]) = true := by
  decide +kernel
/-- V51. -/
theorem test_eccAddf : gives (.eccAddf f0 (src 0x2000 216) (loc 0x1000) 576) (ecc [p384Prime, p384Prime + 5]) (loc 0x1000)
    (hex 1 0x05 ++ List.replicate 71 0) = true := by decide +kernel
/-- V52. -/
theorem test_eccInvf : gives (.eccInvf f0 (src 0x2000 144) (loc 0x1000) 384) (ecc [3]) (loc 0x1000)
    (hex 20 0x00000000ABAAAAAAAAAAAAAAFFFFFFFF54555555 ++ List.replicate 28 0x55 ++ List.replicate 24 0) = true := by
  decide +kernel
/-- V52: no inverse. -/
theorem test_eccInvf_zero :
    fails (.eccInvf f0 (src 0x2000 144) (loc 0x1000) 384) (ecc [p384Prime]) (ecc [p384Prime]) = true := by decide +kernel
/-- V56: 2·G. -/
theorem test_eccMulc : gives (.eccMulc f0 (src 0x2000 360) (loc 0x1000) 384) (ecc [2, p384Gx, p384Gy, 7]) (loc 0x1000)
    (hex 48 0x61DF9552C7A9965BF8640EBE6EE8E04F9E6EB99FD107D251D634F4A659590289F0975BC545002669D9D2A37B0599D908 ++
      List.replicate 24 0 ++
      hex 48 0x800E940A701E50612DE2394DE943FD5F25B46A255F504E903EC46CBC75D875B274BA6DFDDFE8BFB7ED3C1B5BFAF1808E ++
      List.replicate 24 0) = true := by decide +kernel
/-- V57: 0·G under `ECC_INFINITY = fault`. -/
theorem test_eccMulc_infinity : fails (.eccMulc f0 (src 0x2000 360) (loc 0x1000) 384) (ecc [0, p384Gx, p384Gy, 7])
    (ecc [0, p384Gx, p384Gy, 7]) = true := by decide +kernel
/-- 1·G + 1·G is the 2·G of V56. -/
theorem test_eccMuladdc : gives (.eccMuladdc f0 (src 0x2000 576) (loc 0x1000) 384)
    (ecc [1, p384Gx, p384Gy, 1, p384Gx, p384Gy, 0]) (loc 0x1000)
    (hex 48 0x61DF9552C7A9965BF8640EBE6EE8E04F9E6EB99FD107D251D634F4A659590289F0975BC545002669D9D2A37B0599D908 ++
      List.replicate 24 0 ++
      hex 48 0x800E940A701E50612DE2394DE943FD5F25B46A255F504E903EC46CBC75D875B274BA6DFDDFE8BFB7ED3C1B5BFAF1808E ++
      List.replicate 24 0) = true := by decide +kernel
/-- A source one byte short (R219). -/
theorem test_eccMuladdc_short : fails (.eccMuladdc f0 (src 0x2000 575) (loc 0x1000) 384)
    (ecc [1, p384Gx, p384Gy, 1, p384Gx, p384Gy, 0]) (ecc [1, p384Gx, p384Gy, 1, p384Gx, p384Gy, 0]) = true := by
  decide +kernel

/-- `ZABC` and its corrupt form at 0x2000. -/
def zabc : State := putLocal 0x2000 (hex 11 0x78DA4B4C4A0600024D0127) base
def zbad : State := putLocal 0x2000 (hex 11 0x78DA4B4C4A0600024D0128) base

/-- V60. -/
theorem test_zlibInflate :
    gives (.zlibInflate fIE (src 0x2000 11) (loc 0x3000)) zabc (loc 0x3000) (hex 3 0x616263) = true := by decide +kernel
/-- V62. -/
theorem test_zlibInflate_trailer : fails (.zlibInflate fIE (src 0x2000 11) (loc 0x3000)) zbad zbad = true := by
  decide +kernel

/-! ## The register file (48_mmio.md; V72 to V77) -/

/-- The state after one host action from reset, with queue 0 as given. -/
def host (e : HostEvent) (q : Queue) : State := serveHost { State.reset with q0 := q, pending := [e] }

/-- V72: RUN reads 0, SIZE is kept. -/
theorem test_control_write :
    (host (.primaryWrite 0x1000 32 0x1B) queueReset).q0 = { queueReset with control := 0x1A, enabled := true } := by
  decide +kernel
/-- V73: write-one-to-clear. -/
theorem test_ists_write : (host (.primaryWrite 0x1010 32 0xFFFFFFF4) { queueReset with ists := 0xC }).q0.ists = 0x8 := by
  decide +kernel
/-- V74: a write of 16 bits to `ien` does nothing. -/
theorem test_width : (host (.primaryWrite 0x100C 16 0xFFFF) queueReset).q0 = queueReset := by decide +kernel
/-- V75: 0x1014 names no register. -/
theorem test_undefined : (host (.primaryRead 0x1014 32) { queueReset with enabled := true }).phase = .idle := by
  decide +kernel
/-- The register offsets of the map: the last register of queue 1. -/
theorem test_offset : primaryOffset RegMap.default .q1 .status = 0x2100 ∧ primaryOffset RegMap.default .q0 .ien = 0x100C := by decide +kernel
/-- V77: a pending interrupt of queue 1 raises the line; `irq.set(0, 0x15, 1)`. -/
theorem test_irq :
    ((serveHost { State.reset with q1 := { queueReset with ists := 0xD }, pending := [.primaryWrite 0x200C 32 8] }).responses.map
      (·.irq)) = [⟨0, 0x15, true⟩] := by decide +kernel
/-- V70: an unknown engine stops the queue with ERROR and Q_STOP, `head` kept. -/
theorem test_unknown_engine :
    (match step (putLocal 0x1000 (hex 4 0x00009000) base) with
      | .next t => t.q0
      | .fault _ => queueReset
      | .refused _ => queueReset) =
      { base.q0 with status := 1, ists := 0x6, control := 0x2 } := by decide +kernel

/-! ## Witnesses: for every statement with hypotheses, states and operands that meet them, at the edges of its clauses -/

theorem aesWf_none (s : State) (h : s.aes = none) : s.AesWf := fun a ha => by rw [h] at ha; cases ha
theorem sha_none (s : State) (ty : ShaType) (h : s.sha = none) : ∀ x, s.sha = some x → x.type = ty :=
  fun a ha => by rw [h] at ha; cases ha
theorem zlibWf_none (s : State) (h : s.zlib = none) : s.ZlibWf := fun a ha => by rw [h] at ha; cases ha

/-- LOCAL 0x9000 to 0x9FFF is not served. -/
def holed : State := { base with params := { Params.default with unmapped := [⟨0x9000, 0x1000⟩] } }

/-- Reset with one host action to come, every register of queue 1 enabled or not. -/
def asks (e : HostEvent) (en : Bool := false) : State :=
  { State.reset with q1 := { queueReset with enabled := en, ien := 8 }, pending := [e] }

/-- Another encoding: every field of `dw0` elsewhere, the engine codes and the ECC operations in the reverse order. -/
def shifted : Encoding :=
  { Encoding.default with
    dw0 := { init := 31, eom := 0, function := 10, engine := 1 }
    engines := { aes := 7, xtsAes := 6, des3 := 5, sha := 4, rsa := 3, passthrough := 2, zlib := 1, ecc := 0 }
    ecc := { bits := ⟨3, 12⟩, op := ⟨0, 3⟩, codeMulf := 4, codeAddf := 3, codeInvf := 2, codeMulc := 1, codeMuladdc := 0 }
    mem := { type := 7, ctx := 0, fixed := 9 } }

theorem shifted_wf : shifted.WF := by constructor <;> decide

/-- `ecc.mulf` with `init` and 384 bits in that encoding: bit 31, op 4 at bits 12 to 10, 384 at bits 24 to 13, engine 0. -/
theorem test_dec_shifted :
    decodeWith shifted (hex 32 0x00103080D8000000002000000000050100300000000000010000000000000000) =
      .ok (.eccMulf fI (src 0x2000 216 5) (loc 0x3000) 384) := by decide +kernel

theorem witness_DecodeInvertsEncode :
    (Encoding.default.WF ∧ shifted.WF) ∧
      (Instr.eccMuladdc fIE ⟨0xFFFFFFFF, 0xFFFFFFFFFFFF, .code3, 127, true⟩ ⟨0xFFFFFFFFFFFF, .code3⟩ 4095).WellFormed ∧
      (Instr.sha384 f0 ⟨0, 0, .system, 0, false⟩ 0xFFFFFFFFFFFFFFFF).WellFormed :=
  ⟨⟨Laws.default_encoding_wf, shifted_wf⟩, by decide⟩

theorem witness_DecodeFollowsOpcodeTable :
    decode (toLe 0xFF500047 32) = .ok (.ptSwap256 f0 ⟨0, 0, .system, 0, false⟩ ⟨0, .system⟩) ∧
      (toLe 0xFF500047 32).length = 32 ∧
      descWord (toLe 0xFF500047 32) 0 &&& (Instr.ptSwap256 f0 (src 0 0) (loc 0)).dw0Mask =
        (Instr.ptSwap256 f0 (src 0 0) (loc 0)).dw0Match := by decide +kernel

theorem witness_IllegalDescriptorsAreClassified :
    (decode (toLe 0x00100000 32) = .error (.unknownEngine 1) ∧ decode (toLe 0x00F00000 32) = .error (.unknownEngine 15) ∧
      decode (toLe 0x00040018 32) = .error (.unsupportedFunction 0 0x2000) ∧
      decode (toLe 0x007E3000 32) = .error (.unsupportedFunction 7 0x7180)) ∧
    decodeWith shifted (toLe 0xA 32) = .error (.unknownEngine 5) ∧
    decodeWith shifted (toLe 0x1400 32) = .error (.unsupportedFunction 0 5) := by decide +kernel

/-- Pairs of descriptors that differ in ignored bits alone: the ignored bits of V11; the high key bits of an AES descriptor;
the key words and the reserved function bits of a SHA descriptor; those of a PASSTHROUGH descriptor, also of an illegal one;
all function bits of ZLIB and of an unknown engine. -/
theorem witness_IgnoredBitsDoNotMatter :
    ∀ p ∈ [(toLe 0x00500000 32, toLe (0xFF500007 + 0x7E000000 * 2 ^ 96 + 0xFFFC0000 * 2 ^ 160 + 5 * 2 ^ 192) 32),
        (toLe 0x00001000 32, toLe (0x00001000 + 0xFFFC0000 * 2 ^ 224) 32),
        (toLe 0x00318000 32, toLe (0x003FFFE0 - 0x60000 + 0xFFFFFFFF * 2 ^ 224) 32),
        (toLe 0x00500040 32, toLe 0x005FF040 32), (toLe 0x00500020 32, toLe 0x005FF020 32),
        (toLe 0x00600000 32, toLe 0x006FFFE0 32), (toLe 0x00900000 32, toLe 0x009FFFE0 32)],
      p.1 ≠ p.2 ∧ p.1.length = 32 ∧ p.2.length = 32 ∧ field (descWord p.1 0) 3 2 = field (descWord p.2 0) 3 2 ∧
      field (descWord p.1 0) 20 4 = field (descWord p.2 0) 20 4 ∧
      (field (descWord p.1 0) 20 4 = 3 → field (descWord p.1 0) 15 4 = field (descWord p.2 0) 15 4) ∧
      (field (descWord p.1 0) 20 4 = 5 → field (descWord p.1 0) 5 7 = field (descWord p.2 0) 5 7) ∧
      (field (descWord p.1 0) 20 4 ∈ [0, 4, 7] → field (descWord p.1 0) 5 15 = field (descWord p.2 0) 5 15) ∧
      descWord p.1 1 = descWord p.2 1 ∧ descWord p.1 2 = descWord p.2 2 ∧
      field (descWord p.1 3) 0 25 = field (descWord p.2 3) 0 25 ∧ bitAt (descWord p.1 3) 31 = bitAt (descWord p.2 3) 31 ∧
      descWord p.1 4 = descWord p.2 4 ∧
      (if field (descWord p.1 0) 20 4 = 3 then descWord p.1 5 = descWord p.2 5
        else field (descWord p.1 5) 0 18 = field (descWord p.2 5) 0 18) ∧
      (field (descWord p.1 0) 20 4 ∈ [0, 4] →
        descWord p.1 6 = descWord p.2 6 ∧ field (descWord p.1 7) 0 18 = field (descWord p.2 7) 0 18) := by decide +kernel

theorem witness_LsbAccessIsBounded :
    (List.replicate 4096 (0 : Byte)).length = 4096 ∧ ([7] : Bytes).length = 1 ∧ (0 + 4096 ≤ 4096 ∧ 0 < 4096) ∧
      (4095 + 1 ≤ 4096 ∧ 4095 < 4096) ∧ ¬ (4096 + 1 ≤ 4096 ∧ 4096 < 4096) ∧ ¬ (1 + 4096 ≤ 4096 ∧ 1 < 4096) :=
  ⟨List.length_replicate, by decide⟩

theorem witness_UnservedAccessesFail :
    ([7] : Bytes) ≠ [] ∧ ∀ p ∈ [(MemType.system, 0), (.code3, 0), (.sb, 4096), (.localMem, 2 ^ 48), (.localMem, 0x9FFF)],
      holed.serves p.1 p.2 ([7] : Bytes).length = false := by decide +kernel

theorem witness_WriteIsReadBack :
    holed.MemoryWf ∧ ([7] : Bytes) ≠ [] ∧
      ∀ p ∈ [(MemType.sb, 4095), (.localMem, 2 ^ 48 - 1), (.localMem, 0x8FFF)],
        holed.serves p.1 p.2 ([7] : Bytes).length = true := by decide +kernel

/-- A write that succeeds at the lower edge of the LSB, one over its budget, one whose third byte down is not served. -/
theorem witness_ReverseWriteReversesBytes :
    (base.MemoryWf ∧ (xferOf (src 0 0) (sb 0) (some 4) true).reverse = true ∧ ([1, 2, 3, 4] : Bytes) ≠ [] ∧
      (xferOf (src 0 0) (sb 0) (some 4) true).fits ([1, 2, 3, 4] : Bytes).length = true ∧
      ([1, 2, 3, 4] : Bytes).length ≤ (xferOf (src 0 0) (sb 0) (some 4) true).dstAddr ∧
      base.serves .sb ((xferOf (src 0 0) (sb 0) (some 4) true).dstAddr - ([1, 2, 3, 4] : Bytes).length)
        ([1, 2, 3, 4] : Bytes).length = true) ∧
    (xferOf (src 0 0) (sb 0) (some 3) true).fits ([1, 2, 3, 4] : Bytes).length = false ∧
    holed.MemoryWf ∧ 2 < ([1, 2, 3, 4] : Bytes).length ∧
      (xferOf (src 0 0) (loc 0x9FFE) (some 4) true).fits ([1, 2, 3, 4] : Bytes).length = true ∧
      ([1, 2, 3, 4] : Bytes).length ≤ (xferOf (src 0 0) (loc 0x9FFE) (some 4) true).dstAddr ∧
      holed.serves .localMem ((xferOf (src 0 0) (loc 0x9FFE) (some 4) true).dstAddr - 2) 2 = true ∧
      holed.serves .localMem ((xferOf (src 0 0) (loc 0x9FFE) (some 4) true).dstAddr - 2 - 1) 1 = false := by decide +kernel

/-- No byte from SYSTEM, all of the LSB, and two pieces moved downward over themselves. -/
theorem witness_CopyMovesBytes :
    base.MemoryWf ∧
      ∀ p ∈ [((⟨0, 0, .system, 0, false⟩ : Source), (⟨0, .system⟩ : Place)), (sbSrc 0 4096, loc 0x3000), (src 0x2000 5000, loc 0x1F00)],
        base.serves p.1.mt p.1.addr p.1.cbSrc = true ∧ base.serves p.2.mt p.2.addr p.1.cbSrc = true ∧
          sourceStable 4096 p.1 p.2 p.1.cbSrc := by unfold sourceStable; decide +kernel

/-- An overlapping copy; a copy whose source fails in its second piece; one whose destination fails in its first. -/
theorem witness_CopyProceedsPieceByPiece :
    (base.MemoryWf ∧ 4096 < (src 0x2000 4097).cbSrc ∧ base.serves .localMem 0x2000 4097 = true ∧
      base.serves .localMem 0x2001 4097 = true) ∧
    holed.MemoryWf ∧ holed.phase = .draining .write ∧
    (4096 = 4096 * 1 ∧ 4096 < (src 0x8000 4097).cbSrc ∧ 1 = min 4096 ((src 0x8000 4097).cbSrc - 4096) ∧
      holed.serves .localMem 0x8000 4096 = true ∧ holed.serves .localMem 0x3000 4096 = true ∧
      holed.serves .localMem (0x8000 + 4096) 1 = false ∧
      sourceStable 4096 { src 0x8000 4097 with cbSrc := 4096 } (loc 0x3000) 4096) ∧
    (0 = 4096 * 0 ∧ 0 < (src 0x2000 7).cbSrc ∧ 7 = min 4096 ((src 0x2000 7).cbSrc - 0) ∧ holed.serves .localMem 0x2000 0 = true ∧
      holed.serves .sb 4090 0 = true ∧ holed.serves .sb (4090 + 0) 7 = false) := by unfold sourceStable; decide +kernel

theorem witness_SwapReversesBytes :
    base.MemoryWf ∧ (src 0x2000 32).cbSrc = 32 ∧ base.serves .localMem 0x2000 32 = true ∧ base.serves .sb 4064 32 = true := by
  decide +kernel

/-- 31 and 33 bytes; the LSB edge; a source that is not served; a destination that is not served below its 16th byte down. -/
theorem witness_SwapFailsCleanly :
    (base.phase = .draining .write ∧ (src 0x2000 31).cbSrc ≠ 32 ∧ (src 0x2000 33).cbSrc ≠ 32) ∧
    ((src 0x2000 32).cbSrc = 32 ∧ base.serves .localMem 0x2000 32 = true ∧ (sb 4065).mt = .sb ∧ 4096 < (sb 4065).addr + 32) ∧
    holed.phase = .draining .write ∧ holed.serves .localMem 0x8FE1 32 = false ∧ holed.MemoryWf ∧ 16 < 32 ∧
      holed.serves .localMem 0x2000 32 = true ∧ holed.serves .localMem (0x9FF0 + 32 - 16) 16 = true ∧
      holed.serves .localMem (0x9FF0 + 31 - 16) 1 = false := by decide +kernel

/-- A session of one byte. -/
def hashing : State := { base with sha := some ⟨.sha384, [0x61]⟩ }

theorem witness_ShaUpdateAppends :
    shaOf (.sha256 f0 (src 0x2000 3) 24) = some (.sha256, f0, src 0x2000 3) ∧ f0.eom = false ∧
      (∀ x, base.sha = some x → x.type = .sha256) ∧ base.serves .localMem 0x2000 3 = true ∧
      shaOf (.sha384 fI (sbSrc 0 0) 0) = some (.sha384, fI, sbSrc 0 0) ∧ fI.eom = false ∧
      (∀ x, hashing.sha = some x → x.type = .sha384) ∧ hashing.serves .sb 0 0 = true :=
  ⟨rfl, rfl, sha_none base _ rfl, by decide +kernel, rfl, rfl, fun _ h => by cases h; rfl, by decide +kernel⟩

theorem witness_ShaFinalWritesReversedDigest :
    shaOf (.sha256 fE (src 0x2000 3 127) 24) = some (.sha256, fE, src 0x2000 3 127) ∧ base.MemoryWf ∧ fE.eom = true ∧
      (∀ x, base.sha = some x → x.type = .sha256) ∧ base.serves .localMem 0x2000 3 = true ∧ 32 * 127 + shaLen .sha256 ≤ 4096 ∧
      shaOf (.sha384 fE (src 0x2000 3 126) 24) = some (.sha384, fE, src 0x2000 3 126) ∧ hashing.MemoryWf ∧
      (∀ x, hashing.sha = some x → x.type = .sha384) ∧ 32 * 126 + shaLen .sha384 ≤ 4096 :=
  ⟨rfl, by decide +kernel, rfl, sha_none base _ rfl, by decide +kernel, by decide, rfl, by decide +kernel,
    fun _ h => by cases h; rfl, by decide⟩

theorem witness_ShaSplitGivesSameDigest :
    base.MemoryWf ∧ base.sha = none ∧ base.serves .localMem 0x2000 (1 + 2) = true ∧ 32 * (src 0 0 126).ctx + 48 ≤ 4096 := by
  decide +kernel

/-- A session of the other type; a digest that does not fit; a source that is not served. -/
theorem witness_ShaFailuresEmptyTheSession :
    (hashing.phase = .draining .write ∧ shaOf (.sha256 fE (src 0x2000 3) 24) = some (.sha256, fE, src 0x2000 3) ∧
      ∃ x, hashing.sha = some x ∧ x.type ≠ .sha256) ∧
    (shaOf (.sha384 fE (src 0x2000 3 127) 24) = some (.sha384, fE, src 0x2000 3 127) ∧
      (∀ x, hashing.sha = some x → x.type = .sha384) ∧ fE.eom = true ∧ (src 0x2000 3 127).ctx = 127) ∧
    shaOf (.sha256 f0 (sbSrc 4096 1) 0) = some (.sha256, f0, sbSrc 4096 1) ∧ (∀ x, base.sha = some x → x.type = .sha256) ∧
      base.serves .sb 4096 1 = false :=
  ⟨⟨rfl, rfl, ⟨_, rfl, by decide⟩⟩, ⟨rfl, fun _ h => by cases h; rfl, rfl, rfl⟩, rfl, sha_none base _ rfl, by decide +kernel⟩

/-- A session of AES-128 in ECB with four bytes pending. -/
def ciphering : AesSession := ⟨List.replicate 16 0, .ecb, .enc, List.replicate 16 0, [1, 2, 3, 4]⟩
def aesOpen : State := { base with aes := some ciphering }

theorem aesOpen_wf : aesOpen.AesWf := fun a h => by cases h; decide

/-- A session started in CBC, and one continued over its end. -/
theorem witness_AesProcessesWholeBlocks :
    (aesOf (.aes256CbcDec fI (src 0x2000 20 3) (loc 0x3000) (sb 0x40)) =
        some (⟨32, .cbc, .dec⟩, ⟨fI, src 0x2000 20 3, loc 0x3000, sb 0x40⟩) ∧
      base.MemoryWf ∧ base.AesWf ∧ base.params.proxy = false ∧
      aesOpens ⟨32, .cbc, .dec⟩ ⟨fI, src 0x2000 20 3, loc 0x3000, sb 0x40⟩ base =
        some ⟨List.replicate 32 0, .cbc, .dec, List.replicate 16 0, []⟩ ∧
      base.serves .localMem 0x2000 20 = true ∧
      base.serves .localMem 0x3000 (aesOutLen ⟨List.replicate 32 0, .cbc, .dec, List.replicate 16 0, []⟩ (src 0x2000 20 3)) =
        true) ∧
    (aesOf (.aes128EcbEnc fE (src 0x2000 28) (loc 0x2000) (loc 0x1000)) =
        some (⟨16, .ecb, .enc⟩, ⟨fE, src 0x2000 28, loc 0x2000, loc 0x1000⟩) ∧
      aesOpen.MemoryWf ∧ aesOpen.AesWf ∧ aesOpen.params.proxy = false ∧
      aesOpens ⟨16, .ecb, .enc⟩ ⟨fE, src 0x2000 28, loc 0x2000, loc 0x1000⟩ aesOpen = some ciphering ∧
      aesOpen.serves .localMem 0x2000 28 = true ∧ aesOpen.serves .localMem 0x2000 (aesOutLen ciphering (src 0x2000 28)) = true ∧
      (ciphering.pend.length + (src 0x2000 28).cbSrc) % 16 = 0 ∧
      sourceStable 512 (src 0x2000 28) (loc 0x2000) (aesOutLen ciphering (src 0x2000 28))) :=
  ⟨⟨rfl, by decide +kernel, aesWf_none base rfl, rfl, by decide +kernel, by decide +kernel, by decide +kernel⟩,
    ⟨rfl, by decide +kernel, aesOpen_wf, rfl, by decide +kernel, by decide +kernel, by decide +kernel, by decide,
      .inl (by decide)⟩⟩

/-- A session of the other direction; a key that is not served; a source that is not served from its second piece on; an LSB
destination with room for no block; a message that ends ragged. -/
theorem witness_AesFailuresEmptyTheSession :
    (aesOf (.aes128EcbDec f0 (src 0x2000 16) (loc 0x3000) (loc 0x1000)) =
        some (⟨16, .ecb, .dec⟩, ⟨f0, src 0x2000 16, loc 0x3000, loc 0x1000⟩) ∧
      aesOpen.phase = .draining .write ∧ aesOpen.params.proxy = false ∧ f0.init = false ∧ aesOpen.aes = some ciphering ∧
      ciphering.dir ≠ .dec) ∧
    (holed.phase = .draining .write ∧ holed.params.proxy = false ∧ holed.aes = none ∧
      holed.serves .localMem 0x9FFF 16 = false) ∧
    (aesOf (.aes128EcbEnc fIE (src 0x8E00 513) (loc 0x3000) (loc 0x1000)) =
        some (⟨16, .ecb, .enc⟩, ⟨fIE, src 0x8E00 513, loc 0x3000, loc 0x1000⟩) ∧
      holed.MemoryWf ∧ holed.AesWf ∧
      aesOpens ⟨16, .ecb, .enc⟩ ⟨fIE, src 0x8E00 513, loc 0x3000, loc 0x1000⟩ holed =
        some ⟨List.replicate 16 0, .ecb, .enc, List.replicate 16 0, []⟩ ∧
      512 = 512 * 1 ∧ 512 < (src 0x8E00 513).cbSrc ∧ 1 = min 512 ((src 0x8E00 513).cbSrc - 512) ∧
      holed.serves .localMem 0x8E00 512 = true ∧ holed.serves .localMem 0x3000 512 = true ∧
      aesOutLen ⟨List.replicate 16 0, .ecb, .enc, List.replicate 16 0, []⟩ { src 0x8E00 513 with cbSrc := 512 } = 512 ∧
      holed.serves .localMem (0x8E00 + 512) 1 = false) ∧
    (aesOf (.aes128EcbEnc f0 (src 0x2000 12) (sb 4081) (loc 0x1000)) =
        some (⟨16, .ecb, .enc⟩, ⟨f0, src 0x2000 12, sb 4081, loc 0x1000⟩) ∧
      aesOpen.MemoryWf ∧ aesOpen.AesWf ∧
      aesOpens ⟨16, .ecb, .enc⟩ ⟨f0, src 0x2000 12, sb 4081, loc 0x1000⟩ aesOpen = some ciphering ∧ 0 = 512 * 0 ∧
      0 < (src 0x2000 12).cbSrc ∧ 12 = min 512 ((src 0x2000 12).cbSrc - 0) ∧ aesOpen.serves .localMem 0x2000 0 = true ∧
      aesOpen.serves .sb 4081 (aesOutLen ciphering { src 0x2000 12 with cbSrc := 0 }) = true ∧
      aesOpen.serves .sb (4081 + aesOutLen ciphering { src 0x2000 12 with cbSrc := 0 })
        (aesOutLen ciphering { src 0x2000 12 with cbSrc := 0 + 12 } - aesOutLen ciphering { src 0x2000 12 with cbSrc := 0 }) =
        false) ∧
    (aesOf (.aes128EcbEnc fE (src 0x2000 27) (loc 0x3000) (loc 0x1000)) =
        some (⟨16, .ecb, .enc⟩, ⟨fE, src 0x2000 27, loc 0x3000, loc 0x1000⟩) ∧
      aesOpens ⟨16, .ecb, .enc⟩ ⟨fE, src 0x2000 27, loc 0x3000, loc 0x1000⟩ aesOpen = some ciphering ∧
      aesOpen.serves .localMem 0x2000 27 = true ∧ aesOpen.serves .localMem 0x3000 (aesOutLen ciphering (src 0x2000 27)) = true ∧
      fE.eom = true ∧ (ciphering.pend.length + (src 0x2000 27).cbSrc) % 16 ≠ 0 ∧
      sourceStable 512 (src 0x2000 27) (loc 0x3000) (aesOutLen ciphering (src 0x2000 27))) :=
  ⟨⟨rfl, rfl, rfl, rfl, rfl, by decide⟩, ⟨rfl, rfl, rfl, by decide +kernel⟩,
    ⟨rfl, by decide +kernel, aesWf_none holed rfl, by decide +kernel⟩,
    ⟨rfl, by decide +kernel, aesOpen_wf, by decide +kernel⟩,
    ⟨rfl, by decide +kernel, by decide +kernel, by decide +kernel, rfl, by decide, .inl (by decide)⟩⟩

/-- A state with 7 bytes counted, under one reading of log 25. -/
def counted (k : SessionErrorCount) (s : State) : State :=
  { s with cbWrittenLast := 7, params := { s.params with sessionErrorCount := k } }

/-- The count and whether both sessions are empty afterwards. -/
def countLeft : Host.Outcome State Fault Refusal → Option (Word × Bool)
  | .next t => some (t.cbWrittenLast, t.sha.isNone && t.aes.isNone)
  | _ => none

/-- A session of the other type, under both readings (V24, log 25). -/
theorem test_sha_mismatch :
    countLeft (exec (.sha256 fE (src 0x2000 3) 24) (counted .kept hashing)) = some (7, true) ∧
      countLeft (exec (.sha256 fE (src 0x2000 3) 24) (counted .cleared hashing)) = some (0, true) := by decide +kernel

/-- A session of the other direction, under both readings (V36, log 25). -/
theorem test_aes_mismatch :
    countLeft (exec (.aes128EcbDec f0 (src 0x2000 16) (loc 0x3000) (loc 0x1000)) (counted .kept aesOpen)) = some (7, true) ∧
      countLeft (exec (.aes128EcbDec f0 (src 0x2000 16) (loc 0x3000) (loc 0x1000)) (counted .cleared aesOpen)) =
        some (0, true) := by decide +kernel

/-- A proxy, and the last protected key address. -/
def proxied : State := { base with params := { Params.default with proxy := true } }

/-- A source and a destination that are served, and one of each that is not. -/
theorem witness_AesProxyAnswerIsWritten :
    aesOf (.aes128EcbEnc fIE (src 0x2000 16) (loc 0x3000) (sb 0x9F)) =
        some (⟨16, .ecb, .enc⟩, ⟨fIE, src 0x2000 16, loc 0x3000, sb 0x9F⟩) ∧
      proxied.MemoryWf ∧ proxied.phase = .draining .write ∧ proxied.params.proxy = true ∧ protectedKey (sb 0x9F) = true ∧
      (Instr.aes128EcbEnc fIE (src 0x2000 16) (loc 0x3000) (sb 0x9F)).dw0 proxied.params.encoding = 0x1018 ∧
      proxied.serves .localMem 0x2000 16 = true ∧ proxied.serves .localMem 0x3000 16 = true ∧
      proxied.serves .sb 4081 16 = false ∧ proxied.serves .code3 0x2000 16 = false := by decide +kernel

/-- The IV goes to the proxy as it lies in its slot. -/
theorem test_proxyCall :
    (proxyCall 0x3018 ⟨16, .cbc, .enc⟩ ⟨fIE, src 0x2000 3 1, loc 0x3000, sb 0x40⟩ [1, 2, 3] (putLsb 32 (ramp 16) proxied)) =
      ⟨0x3018, 3, [1, 2, 3], 0x40, ramp 16⟩ := by decide +kernel

theorem witness_AesDecryptInvertsEncrypt :
    (ramp 16).length = 16 ∧ (ramp 32).length = 32 ∧ (List.replicate 16 (0xFF : Byte)).length = 16 := by decide

theorem witness_AesModesInvert : AesSession.Wf ciphering ∧ ∀ b ∈ [ramp 16, List.replicate 16 0xFF], b.length = 16 := by decide

theorem witness_PowModIsModularPower : 0 < 2 ^ 0 ∧ 7 < 2 ^ 3 := by decide

theorem witness_RsaWritesModularPower :
    (rsaOf (.rsaModexp2048 f0 (src 0x2000 512) (loc 0x4000) (loc 0x3000)) =
        some (256, src 0x2000 512, loc 0x4000, loc 0x3000) ∧
      rsaOf (.rsaModexp4096 f0 (src 0x2000 1024) (sb 3584) (loc 0x3000)) =
        some (512, src 0x2000 1024, sb 3584, loc 0x3000)) ∧
    ∀ p ∈ [(256, rsa 256 3233 65 17), (512, rsa 512 3233 65 17)],
      p.2.MemoryWf ∧ p.2.serves .localMem 0x3000 p.1 = true ∧ p.2.serves .localMem 0x2000 (2 * p.1) = true ∧
        p.2.serves .sb 3584 p.1 = true ∧
        le (p.2.bytesAt .localMem (0x2000 + p.1) p.1) < le (p.2.bytesAt .localMem 0x2000 p.1) := by decide +kernel

/-- A key that is not served; a source one byte short; a source that is not served; equal message and modulus; a destination of
which only the upper half is served. -/
theorem witness_RsaFailuresLeaveWhatWasWritten :
    rsaOf (.rsaModexp4096 f0 (src 0x2000 1023) (loc 0x4000) (loc 0x3000)) =
        some (512, src 0x2000 1023, loc 0x4000, loc 0x3000) ∧
      rsaOf (.rsaModexp2048 f0 (src 0x2000 512) (loc 0x9F80) (loc 0x3000)) =
        some (256, src 0x2000 512, loc 0x9F80, loc 0x3000) ∧
      (rsa 256 65 65 17).phase = .draining .write ∧ holed.serves .localMem 0x8FFF 512 = false ∧ 1023 < 2 * 512 ∧
      base.serves .sb 3585 (2 * 256) = false ∧
      le ((rsa 256 65 65 17).bytesAt .localMem 0x2000 256) ≤ le ((rsa 256 65 65 17).bytesAt .localMem (0x2000 + 256) 256) ∧
      ∀ s ∈ [({ rsa 256 3233 65 17 with params := holed.params } : State)],
        s.phase = .draining .write ∧ s.MemoryWf ∧ s.serves .localMem 0x3000 256 = true ∧ 2 * 256 ≤ (src 0x2000 512).cbSrc ∧
          s.serves .localMem 0x2000 (2 * 256) = true ∧
          le (s.bytesAt .localMem (0x2000 + 256) 256) < le (s.bytesAt .localMem 0x2000 256) ∧ 128 < 256 ∧
          s.serves .localMem (0x9F80 + 256 - 128) 128 = true ∧ s.serves .localMem (0x9F80 + 256 - 128 - 1) 1 = false := by
  decide +kernel

theorem witness_EccFieldOperationsCompute :
    (ecc [2, 3]).params.ecc.WF ∧ (ecc [2, 3]).MemoryWf ∧ 576 ≤ 576 ∧ (ecc [2, 3]).serves .sb 4024 72 = true ∧
      eccOperand (ecc [2, 3]) (src 0x2000 216) 0 = 2 ^ 384 - 2 ^ 128 - 2 ^ 96 + 2 ^ 32 - 1 ∧
      (ecc [2, 3]).params.ecc.mulf = ⟨216, 72, 144⟩ ∧ (ecc [2, 3]).params.ecc.addf = ⟨216, 72, 144⟩ ∧
      216 ≤ (src 0x2000 216).cbSrc ∧ (ecc [2, 3]).serves .localMem 0x2000 216 = true :=
  ⟨Laws.default_ecc_wf, by decide +kernel⟩

/-- An operand with an inverse, and the prime itself. -/
theorem witness_EccInversionComputes :
    EccLayout.default.WF ∧ ∀ a ∈ [3, p384Prime],
      (ecc [a]).params.ecc = EccLayout.default ∧ (ecc [a]).MemoryWf ∧ (ecc [a]).phase = .draining .write ∧
        (ecc [a]).params.ecc.invf = ⟨144, 72⟩ ∧ 144 ≤ (src 0x2000 144).cbSrc ∧
        (ecc [a]).serves .localMem 0x2000 144 = true ∧ (ecc [a]).serves .localMem 0x3000 72 = true ∧
        eccOperand (ecc [a]) (src 0x2000 144) 0 = p384Prime ∧ eccOperand (ecc [a]) (src 0x2000 144) 72 = a :=
  ⟨Laws.default_ecc_wf, by decide +kernel⟩

/-- `k = 0` and `k = 1` times a point of the curve, and a point off it. -/
theorem witness_EccScalarMultiplyComputes :
    (EccLayout.default.WF ∧ ∀ p ∈ [(0, p384Gy), (1, p384Gy), (1, p384Gy + 1)],
      (ecc [p.1, p384Gx, p.2, 0]).params.ecc = EccLayout.default ∧ (ecc [p.1, p384Gx, p.2, 0]).MemoryWf ∧
        (ecc [p.1, p384Gx, p.2, 0]).phase = .draining .write ∧ EccLayout.default.mulc.blen = 360 ∧
        360 ≤ (src 0x2000 360).cbSrc ∧ (ecc [p.1, p384Gx, p.2, 0]).serves .localMem 0x2000 360 = true ∧
        (ecc [p.1, p384Gx, p.2, 0]).serves .localMem 0x1000 144 = true ∧
        eccOperand (ecc [p.1, p384Gx, p.2, 0]) (src 0x2000 360) 0 = p384Prime) ∧
    onCurve p384Gx p384Gy = true ∧ onCurve p384Gx (p384Gy + 1) = false ∧ eccScalarMul 0 p384Gx p384Gy = .infinity ∧
    eccScalarMul 1 p384Gx p384Gy = .affine p384Gx p384Gy :=
  ⟨⟨Laws.default_ecc_wf, by decide +kernel⟩, by decide +kernel⟩

theorem witness_EccMultiplyAddComputes :
    (ecc [1, p384Gx, p384Gy, 0, p384Gx, p384Gy, 0]).params.ecc.WF ∧ (ecc [1, p384Gx, p384Gy, 0, p384Gx, p384Gy, 0]).MemoryWf ∧
      (ecc [1, p384Gx, p384Gy, 0, p384Gx, p384Gy, 0]).phase = .draining .write ∧
      (ecc [1, p384Gx, p384Gy, 0, p384Gx, p384Gy, 0]).params.ecc.muladdc.blen = 576 ∧ 576 ≤ (src 0x2000 576).cbSrc ∧
      (ecc [1, p384Gx, p384Gy, 0, p384Gx, p384Gy, 0]).serves .localMem 0x2000 576 = true ∧
      (ecc [1, p384Gx, p384Gy, 0, p384Gx, p384Gy, 0]).serves .localMem 0x1000 144 = true ∧
      eccOperand (ecc [1, p384Gx, p384Gy, 0, p384Gx, p384Gy, 0]) (src 0x2000 576) 0 = p384Prime ∧
      pointAdd (eccScalarMul 1 p384Gx p384Gy) (eccScalarMul 0 p384Gx p384Gy) = .affine p384Gx p384Gy ∧
      pointAdd (eccScalarMul 0 p384Gx p384Gy) (eccScalarMul 0 p384Gx p384Gy) = .infinity :=
  ⟨Laws.default_ecc_wf, by decide +kernel⟩

theorem witness_ScalarMultiplicationIsRepeatedAddition : 5 < 2 ^ 3 ∧ 5 < 2 ^ 200 ∧ 0 < 2 ^ 0 := by decide

/-- 577 bits; 576 bits and a short source; a source that is not served; a prime other than P-384; an LSB destination that is one
byte short. -/
theorem witness_EccWritesAllOrNothing :
    base.params.ecc.WF ∧
      eccOf base.params.ecc (.eccMulf f0 (src 0x2000 216) (loc 0x3000) 577) = some (216, 72, src 0x2000 216, loc 0x3000, 577) ∧
      eccOf base.params.ecc (.eccMuladdc f0 (src 0x2000 575) (sb 3953) 576) =
        some (576, 144, src 0x2000 575, sb 3953, 576) ∧
      575 < 576 ∧ base.phase = .draining .write ∧ base.serves .sb 3953 144 = false ∧ base.serves .code3 0x2000 576 = false ∧
      eccOf base.params.ecc (.eccInvf f0 (src 0x2000 144) (loc 0x3000) 0) = some (144, 72, src 0x2000 144, loc 0x3000, 0) ∧
      eccOperand base (src 0x2000 144) 0 ≠ p384Prime :=
  ⟨Laws.default_ecc_wf, rfl, rfl, by decide, rfl, by decide, by decide, rfl, by decide +kernel⟩

theorem witness_InflateIsMonotone :
    (inflate (hex 11 0x78DA4B4C4A0600024D0127)).status ≠ .needMore ∧ (inflate (hex 11 0x78DA4B4C4A0600024D0128)).status ≠ .needMore := by
  decide +kernel

/-- The first five bytes of `ZABC` fed, two bytes of output made; the whole of it fed. -/
def inflating : State := { putLocal 0x2000 (hex 6 0x0600024D0127) base with zlib := some ⟨hex 5 0x78DA4B4C4A, 2⟩ }
def inflated : State := { base with zlib := some ⟨hex 11 0x78DA4B4C4A0600024D0127, 3⟩ }

theorem inflating_wf : inflating.ZlibWf := fun a h => by cases h; decide +kernel

theorem witness_InflateWritesDecodedBytes :
    (zabc.MemoryWf ∧ zabc.ZlibWf ∧ zlibStart fIE.init zabc = ⟨[], 0⟩ ∧ (inflate []).status = .needMore ∧
      zabc.serves .localMem 0x2000 11 = true ∧
      (inflate ([] ++ zabc.bytesAt .localMem 0x2000 11)).status ≠ .error ∧
      (inflate ([] ++ zabc.bytesAt .localMem 0x2000 11)).out.length - 0 = 3 ∧ zabc.serves .sb 4093 3 = true ∧ 11 ≤ 4096) ∧
    (inflating.MemoryWf ∧ inflating.ZlibWf ∧ zlibStart f0.init inflating = ⟨hex 5 0x78DA4B4C4A, 2⟩ ∧
      (inflate (hex 5 0x78DA4B4C4A)).status = .needMore ∧ inflating.serves .localMem 0x2000 6 = true ∧
      (inflate (hex 5 0x78DA4B4C4A ++ inflating.bytesAt .localMem 0x2000 6)).status ≠ .error ∧
      (inflate (hex 5 0x78DA4B4C4A ++ inflating.bytesAt .localMem 0x2000 6)).out.length - 2 = 1 ∧
      inflating.serves .localMem 0x3000 1 = true) :=
  ⟨⟨by decide +kernel, zlibWf_none zabc rfl, by decide +kernel⟩, ⟨by decide +kernel, inflating_wf, by decide +kernel⟩⟩

theorem witness_InflateIgnoresInputAfterTheEnd :
    zlibStart f0.init inflated = ⟨hex 11 0x78DA4B4C4A0600024D0127, 3⟩ ∧
      (inflate (hex 11 0x78DA4B4C4A0600024D0127)).status = .done := by decide +kernel

/-- A decode error in an input of one piece, and in one of two pieces; an LSB destination with no room for the output; a source
that is not served from its first piece on. -/
theorem witness_InflateErrorDropsTheBuffer :
    (zbad.MemoryWf ∧ zbad.phase = .draining .write ∧ zbad.ZlibWf ∧ zlibStart fI.init zbad = ⟨[], 0⟩ ∧
      (inflate []).status = .needMore ∧ (src 0x2000 11).cbSrc ≤ 4096 ∧ zbad.serves .localMem 0x2000 11 = true ∧
      (inflate ([] ++ zbad.bytesAt .localMem 0x2000 11)).status = .error ∧
      ((inflate ([] ++ zbad.bytesAt .localMem 0x2000 11)).out.length - 0) / 4096 * 4096 = 0 ∧
      zbad.serves .system 0 0 = true) ∧
    (sourceDisjoint (src 0x2000 4097) (loc 0x3001) 0 = true ∧ zbad.serves .localMem 0x2000 4097 = true ∧
      (inflate ([] ++ zbad.bytesAt .localMem 0x2000 4097)).status = .error) ∧
    (zabc.MemoryWf ∧ zabc.phase = .draining .write ∧ zabc.ZlibWf ∧ zlibStart fI.init zabc = ⟨[], 0⟩ ∧
      zabc.serves .localMem 0x2000 11 = true ∧ (inflate ([] ++ zabc.bytesAt .localMem 0x2000 11)).status ≠ .error ∧
      0 = 4096 * 0 ∧ (inflate ([] ++ zabc.bytesAt .localMem 0x2000 11)).out.length = 3 ∧ 0 < 3 - 0 ∧
      zabc.serves .sb 4094 0 = true ∧ zabc.serves .sb (4094 + 0) (min 4096 (3 - 0 - 0)) = false) ∧
    holed.MemoryWf ∧ holed.phase = .draining .write ∧ holed.ZlibWf ∧ zlibStart fI.init holed = ⟨[], 0⟩ ∧
      0 < (src 0x9FFF 1).cbSrc ∧ holed.serves .localMem 0x9FFF 0 = true ∧
      holed.serves .localMem (0x9FFF + 0) (min 4096 (1 - 0)) = false ∧
      (inflate ([] ++ holed.bytesAt .localMem 0x9FFF 0)).status = .needMore ∧
      ((inflate ([] ++ holed.bytesAt .localMem 0x9FFF 0)).out.length - 0) / 4096 * 4096 = 0 :=
  ⟨⟨by decide +kernel, rfl, zlibWf_none zbad rfl, by decide +kernel⟩, by decide +kernel,
    ⟨by decide +kernel, rfl, zlibWf_none zabc rfl, by decide +kernel⟩,
    by decide +kernel, rfl, zlibWf_none holed rfl, by decide +kernel⟩

theorem witness_EveryCommandSucceedsOrFails : base.phase = .draining .write := rfl

theorem witness_CommandsKeepForeignSessions :
    base.phase = .draining .write ∧ ∃ t, exec (.sha256 f0 (sbSrc 0 0) 0) base = .next t := ⟨rfl, _, rfl⟩

/-- The descriptor of T12 at `head`. -/
def queued : State := putLocal 0x1000 (hex 32 0x0000500010000000002000000000020000300000000002000000000000000000) base

theorem witness_StepRunsTheDecodedCommand :
    queued.phase = .draining .write ∧ (queued.queue queued.cur).head ≠ (queued.queue queued.cur).tail ∧
      queued.serves .localMem (queued.queue queued.cur).head.toNat 32 = true ∧
      decodeWith queued.params.encoding (queued.bytesAt .localMem (queued.queue queued.cur).head.toNat 32) = .ok (.ptCopy f0 (src 0x2000 16) (loc 0x3000)) := by
  decide +kernel

/-- A fetch that is not served, and an unknown engine. -/
theorem witness_BadDescriptorsStopTheQueue :
    holed.phase = .draining .write ∧ (0x8FE1 : Word) ≠ 0x1000 ∧
      ({ holed with q0 := { holed.q0 with head := 0x8FE1 } } : State).serves .localMem 0x8FE1 32 = false ∧
      holed.q0.head ≠ holed.q0.tail ∧
      decodeWith holed.params.encoding ((putLocal 0x1000 (hex 4 0x00009000) holed).bytesAt .localMem 0x1000 32) = .error (.unknownEngine 9) := by
  decide +kernel

theorem witness_EmptyQueueStopsTheDrain :
    ({ base with q0 := { base.q0 with tail := 0x1000 } } : State).phase = .draining .write ∧
      ({ base with q0 := { base.q0 with tail := 0x1000 } } : State).q0.head =
        ({ base with q0 := { base.q0 with tail := 0x1000 } } : State).q0.tail := by decide

theorem witness_TakingAnErrorStopsTheQueue : base.phase = .draining .write := rfl

/-- `k = 1`: one descriptor, a copy of no bytes. -/
def oneQueued : State := putLocal 0x1000 (hex 4 0x00005000) base

theorem witness_DrainRunsTheQueuedCommandsInOrder :
    oneQueued.phase = .draining .write ∧ 1 < 2 ^ 27 ∧
      (oneQueued.queue oneQueued.cur).tail = (oneQueued.queue oneQueued.cur).head + BitVec.ofNat 32 (32 * 1) ∧
      (∃ u : State, Host.Core.run core 0 oneQueued = .next u ∧ u.phase = .draining .write) ∧
      ∃ u : State, Host.Core.run core 1 oneQueued = .next u ∧ u.phase = .draining .write :=
  ⟨rfl, by decide, by decide, ⟨_, rfl, rfl⟩, ⟨_, rfl, rfl⟩⟩

/-- The whole of an access: the `ien` write that triggers it, the copy, the stop. -/
theorem test_access :
    ((access (putLocal 0x1000 (hex 4 0x00005000)
        { State.reset with
          q0 := { queueReset with head := 0x1000, tail := 0x1020, enabled := true }
          pending := [.primaryWrite 0x100C 32 0xF, .secondaryRead 0x28 32] })).map fun t =>
        (t.q0, t.irqLine, t.pending, t.responses.map (·.data))) =
      some ({ control := 2, head := 0x1020, tail := 0x1020, status := 0, ien := 0xF, ists := 0xD, enabled := true }, true,
        [.secondaryRead 0x28 32], [.none]) := by decide +kernel

theorem witness_DrainKeepsWhatOnlyFirmwareWrites :
    oneQueued.phase = .draining .write ∧ ∃ t, step oneQueued = .next t := ⟨rfl, _, rfl⟩

/-- The default map is one of registers, and the map of every state that the witnesses below use. -/
theorem witness_RegMap : RegMap.default.WF ∧ ∀ e en, (asks e en).params.regs = RegMap.default :=
  ⟨Laws.default_regs_wf, fun _ _ => rfl⟩

theorem witness_ControlWriteNeverDrains :
    (asks (.primaryWrite 0x2000 32 0xFFFFFFFF)).params.regs.WF ∧ (asks (.primaryWrite 0x2000 32 0xFFFFFFFF)).phase = .idle ∧
      (asks (.primaryWrite 0x2000 32 0xFFFFFFFF)).pending =
        [.primaryWrite (primaryOffset (asks (.primaryWrite 0x2000 32 0)).params.regs .q1 .control) 32 0xFFFFFFFF] :=
  ⟨Laws.default_regs_wf, by decide⟩

theorem witness_PlainWritesStoreTheWord :
    (asks (.primaryWrite 0x2004 32 7)).pending = [.primaryWrite (primaryOffset RegMap.default .q1 .tail) 32 7] ∧
      (asks (.primaryWrite 0x1008 32 7)).pending = [.primaryWrite (primaryOffset RegMap.default .q0 .head) 32 7] ∧
      (asks (.primaryWrite 0x2100 32 7)).pending = [.primaryWrite (primaryOffset RegMap.default .q1 .status) 32 7] ∧
      (asks (.primaryWrite 0x2004 32 7) true).phase = .idle := by decide

theorem witness_IenWriteTriggersWhenNonzero :
    (asks (.primaryWrite 0x200C 32 1) true).phase = .idle ∧
      (asks (.primaryWrite 0x200C 32 1) true).pending = [.primaryWrite (primaryOffset RegMap.default .q1 .ien) 32 1] ∧
      (asks (.primaryWrite 0x200C 32 0) true).pending = [.primaryWrite (primaryOffset RegMap.default .q1 .ien) 32 0] := by decide

theorem witness_IstsWriteClearsBits :
    (asks (.primaryWrite 0x2010 32 5) true).phase = .idle ∧
      (asks (.primaryWrite 0x2010 32 5) true).pending = [.primaryWrite (primaryOffset RegMap.default .q1 .ists) 32 5] := by decide

theorem witness_RegisterReadTriggersDrain :
    ∀ en, (asks (.primaryRead 0x2100 32) en).phase = .idle ∧
      (asks (.primaryRead 0x2100 32) en).pending = [.primaryRead (primaryOffset RegMap.default .q1 .status) 32] ∧
      ((asks (.primaryRead 0x2100 32) en).queue .q1).enabled = en := by decide

theorem witness_GlobalRegistersReadZero :
    0xFFF < (asks (.primaryRead 0xFFF 32)).params.regs.qBase ∧ (asks (.primaryRead 0xFFF 32)).phase = .idle ∧
      (asks (.primaryRead 0xFFF 32)).pending = [.primaryRead 0xFFF 32] ∧
      (asks (.primaryWrite 0 32 1)).pending = [.primaryWrite 0 32 1] := by decide

theorem witness_UndefinedOffsetsReadZero :
    RegMap.default.qBase = 0x1000 ∧ RegMap.default.qStride = 0x1000 ∧
      (asks (.primaryRead 0x3000 32)).phase = .idle ∧ (asks (.primaryRead 0x3000 32)).pending = [.primaryRead 0x3000 32] ∧
      0x1000 + 2 * 0x1000 ≤ 0x3000 ∧ (asks (.primaryWrite 0x2FFC 32 1)).pending = [.primaryWrite 0x2FFC 32 1] ∧
      (0x2FFC - 0x1000) % 0x1000 ∉ RegMap.default.offsets ∧ 0x1000 ≤ 0x1001 ∧ 0x1001 % 4 ≠ 0 := by decide

theorem witness_OtherWidthsAreRejected :
    8 ≠ 32 ∧ 64 ≠ 32 ∧ (asks (.primaryRead 0x1000 8)).phase = .idle ∧
      (asks (.primaryRead 0x1000 8)).pending = [.primaryRead 0x1000 8] ∧
      (asks (.secondaryRead 0x28 64)).pending = [.secondaryRead 0x28 64] ∧
      (asks (.primaryWrite 0x200C 8 1) true).pending = [.primaryWrite 0x200C 8 1] ∧
      (asks (.secondaryWrite 0x28 32 1)).pending = [.secondaryWrite 0x28 32 1] ∧
      (asks (.secondaryWrite 0x28 64 1)).pending = [.secondaryWrite 0x28 64 1] := by decide

theorem witness_SecondaryRegionReads :
    ∀ off ∈ [0x28, 0x38, 0x2C, 0],
      (asks (.secondaryRead off 32)).phase = .idle ∧ (asks (.secondaryRead off 32)).pending = [.secondaryRead off 32] := by decide

theorem witness_HostAccessesMoveNoData :
    (asks (.primaryRead 0x2100 32) true).phase = .idle ∧ (∃ t, step (asks (.primaryRead 0x2100 32) true) = .next t) ∧
      ∀ a v rest, (asks (.primaryRead 0x2100 32) true).pending ≠ .localStore a v :: rest :=
  ⟨rfl, ⟨_, rfl⟩, by simp [asks]⟩

theorem witness_IdleDeviceDoesNothing : State.reset.phase = .idle ∧ State.reset.pending = [] := by decide

theorem witness_OnlyFirmwareClearsInterrupts :
    (∃ t, step (asks (.primaryWrite 0x1010 32 1)) = .next t) ∧
      (∀ v rest, (asks (.primaryWrite 0x1010 32 1)).pending ≠
        .primaryWrite (primaryOffset (asks (.primaryWrite 0x1010 32 1)).params.regs .q1 .ists) 32 v :: rest) ∧
      ∃ t, step oneQueued = .next t :=
  ⟨⟨_, rfl⟩, by
    intro v rest h
    have h1 : primaryOffset (asks (.primaryWrite 0x1010 32 1)).params.regs .q1 .ists = 0x2010 := rfl
    rw [h1] at h
    simp [asks] at h, ⟨_, rfl⟩⟩

theorem witness_LineFollowsEveryAccess :
    (∃ t, step (asks (.secondaryRead 0x38 32)) = .next t ∧ t.responses ≠ (asks (.secondaryRead 0x38 32)).responses) ∧
      ∃ t, access (asks (.secondaryRead 0x38 32)) = some t ∧ (HostEvent.secondaryRead 0x38 32).isMmio = true :=
  ⟨⟨serveHost (asks (.secondaryRead 0x38 32)), rfl, by decide +kernel⟩, serveHost (asks (.secondaryRead 0x38 32)),
    by decide +kernel, rfl⟩

theorem witness_StepKeepsTheInvariant : base.Inv ∧ ∃ t, step oneQueued = .next t :=
  ⟨⟨by decide, by decide, by decide, by decide, aesWf_none base rfl, zlibWf_none base rfl, Laws.default_params_wf⟩, _, rfl⟩

theorem witness_ResetHasTheInvariant :
    Params.default.WF ∧ ({ cells := [(4095, 7)] } : Memory).wf 4096 = true ∧ ({ cells := [(0, 1)] } : Memory).wf (2 ^ 48) = true :=
  ⟨Laws.default_params_wf, by decide⟩

theorem witness_PlacedWordIsRunNext :
    State.reset.MemoryWf ∧ State.reset.params.encoding = Encoding.default ∧
      decodeTableWord 32 0x00500000 = some (.ptCopy f0 ⟨0, 0, .system, 0, false⟩ ⟨0, .system⟩) := by
  decide +kernel

end Sys2Proof.Tests
end

section
/-! PROOFS. The lengths of the AES block functions (49_reference_algorithms.md R315 to R319) and the shape of an AES session
under them (43_aes.md R190, R191). -/

namespace Sys2Proof.Machine

/-! ## Pieces -/

theorem length_pieces {α : Type} (n k : Nat) (l : List α) : (pieces n k l).length = k := by
  induction k generalizing l with
  | zero => rfl
  | succ k ih => simp [pieces, ih]

/-- Pieces cut from a list that is long enough are full, and hold only its elements. -/
theorem mem_pieces {α : Type} {n k : Nat} {l p : List α} (h : n * k ≤ l.length) (hp : p ∈ pieces n k l) :
    p.length = n ∧ p ⊆ l := by
  induction k generalizing l with
  | zero => cases hp
  | succ k ih =>
    rw [Nat.mul_succ] at h
    rcases List.mem_cons.1 hp with rfl | hp
    · exact ⟨by rw [List.length_take]; omega, List.take_subset n l⟩
    · obtain ⟨hn, hs⟩ := ih (by rw [List.length_drop]; omega) hp
      exact ⟨hn, fun _ hx => List.drop_subset n l (hs hx)⟩

theorem length_xorBytes (a b : Bytes) : (xorBytes a b).length = min a.length b.length := List.length_zipWith

/-! ## The round keys (R317) -/

theorem length_keyStep (nk i : Nat) {t : Bytes} (h : t.length = 4) : (keyStep nk i t).length = 4 := by
  unfold keyStep
  split
  · simp [length_xorBytes, subWord, rotWord, h]
  · split <;> simp [subWord, h]

/-- The key schedule grows by one word of four bytes a turn. -/
theorem keyExtend_words {nk : Nat} (hnk : 0 < nk) (n i : Nat) {ws : List Bytes} (hl : nk ≤ ws.length)
    (hw : ∀ w ∈ ws, w.length = 4) :
    (keyExtend nk n i ws).length = n + ws.length ∧ ∀ w ∈ keyExtend nk n i ws, w.length = 4 := by
  have word : ∀ j, j < ws.length → (ws.getD j []).length = 4 := by
    intro j hj
    rw [List.getD_eq_getElem _ _ hj]
    exact hw _ (List.getElem_mem hj)
  induction n generalizing i ws with
  | zero => exact ⟨by simp [keyExtend], hw⟩
  | succ n ih =>
    have hnew : ∀ w ∈ xorBytes (ws.getD (nk - 1) []) (keyStep nk i (ws.getD 0 [])) :: ws, w.length = 4 := by
      intro w h
      rcases List.mem_cons.1 h with rfl | h
      · rw [length_xorBytes, word (nk - 1) (by omega), length_keyStep nk i (word 0 (by omega)), Nat.min_self]
      · exact hw w h
    obtain ⟨hlen, hall⟩ := ih (i + 1) (by rw [List.length_cons]; omega) hnew fun j hj => by
      rw [List.getD_eq_getElem _ _ hj]
      exact hnew _ (List.getElem_mem hj)
    exact ⟨by rw [keyExtend, hlen, List.length_cons]; omega, hall⟩

theorem length_mem_roundKeys {key : Bytes} (hk : 4 ≤ key.length) : ∀ k ∈ roundKeys key, k.length = 16 := by
  have hnk : 0 < aesNk key := by unfold aesNk; omega
  have hcut : ∀ w ∈ (pieces 4 (aesNk key) key).reverse, w.length = 4 := fun w hw =>
    (mem_pieces (by unfold aesNk; omega) (List.mem_reverse.1 hw)).1
  obtain ⟨hlen, hall⟩ := keyExtend_words hnk (4 * (aesNr key + 1) - aesNk key) (aesNk key)
    (by rw [List.length_reverse, length_pieces]) hcut
  rw [List.length_reverse, length_pieces] at hlen
  intro k hmem
  obtain ⟨p, hp, rfl⟩ := List.mem_map.1 hmem
  obtain ⟨h4, hsub⟩ := mem_pieces (by rw [List.length_reverse, hlen, aesNr]; omega) hp
  have hword : ∀ n ∈ p.map List.length, n = 4 := by
    intro n hn
    obtain ⟨w, hw, rfl⟩ := List.mem_map.1 hn
    exact hall w (List.mem_reverse.1 (hsub hw))
  rw [List.length_flatten, List.eq_replicate_of_mem hword, List.length_map, h4]
  rfl

/-! ## The rounds (R318, R319) -/

theorem length_mixColumns (s : Bytes) : (mixColumns s).length = 16 := rfl

theorem length_shiftRows (s : Bytes) : (shiftRows s).length = 16 := rfl

theorem length_encRounds {ks : List Bytes} (hks : ∀ k ∈ ks, k.length = 16) {s : Bytes} (hs : s.length = 16) :
    (encRounds ks s).length = 16 := by
  induction ks generalizing s with
  | nil => exact hs
  | cons k t ih =>
    obtain ⟨hk, ht⟩ := List.forall_mem_cons.1 hks
    cases t with
    | nil => rw [encRounds, length_xorBytes, length_shiftRows, hk, Nat.min_self]
    | cons k' t => exact ih ht (by rw [length_xorBytes, length_mixColumns, hk, Nat.min_self])

theorem length_aesEnc {key b : Bytes} (hk : 4 ≤ key.length) (hb : b.length = 16) : (aesEnc key b).length = 16 := by
  have hkeys := length_mem_roundKeys hk
  unfold aesEnc
  split
  · exact hb
  · rename_i k ks heq
    obtain ⟨h0, hks⟩ := List.forall_mem_cons.1 (heq ▸ hkeys)
    exact length_encRounds hks (by rw [length_xorBytes, hb, h0, Nat.min_self])

/-! ## The session under blocks and pieces of input (R190, R191) -/

theorem length_aesBlock_chain {sess : AesSession} {b : Bytes} (hk : 4 ≤ sess.key.length) (hc : sess.chain.length = 16)
    (hb : b.length = 16) : (aesBlock sess b).2.length = 16 := by
  unfold aesBlock
  split
  · exact hc
  · exact hc
  · exact length_aesEnc hk (by rw [length_xorBytes, hb, hc, Nat.min_self])
  · exact hb

/-- Whole blocks change nothing of the session but its chaining value, which stays one block. -/
theorem aesBlocks_session {sess : AesSession} {bs : List Bytes} (hk : 4 ≤ sess.key.length) (hc : sess.chain.length = 16)
    (hbs : ∀ b ∈ bs, b.length = 16) : ∃ c, c.length = 16 ∧ (aesBlocks sess bs).2 = { sess with chain := c } := by
  induction bs generalizing sess with
  | nil => exact ⟨sess.chain, hc, rfl⟩
  | cons b t ih =>
    obtain ⟨hb, ht⟩ := List.forall_mem_cons.1 hbs
    exact ih (sess := { sess with chain := (aesBlock sess b).2 }) hk (length_aesBlock_chain hk hc hb) ht

theorem aesFeed_wf {sess : AesSession} (h : sess.Wf) (v : Bytes) : (aesFeed sess v).2.Wf := by
  obtain ⟨hkey, hchain, -⟩ := h
  obtain ⟨c, hc, hsess⟩ := aesBlocks_session (sess := sess)
    (bs := pieces 16 ((sess.pend ++ v).length / 16) (sess.pend ++ v)) (by omega) hchain
    fun b hb => (mem_pieces (by omega) hb).1
  simp only [aesFeed, hsess]
  exact ⟨hkey, hc, by rw [List.length_drop]; omega⟩

end Sys2Proof.Machine
end

section
/-! PROOFS. What a command can change: the two memories, the three sessions, the counter and the count of free values, nothing
else (10_state.md R10, R20 to R23; 40_dispatch.md R146); canonical memories and well-formed sessions stay so. -/

namespace Sys2Proof.Machine

/-! ## Parts of a command in sequence -/

theorem Res.ofRead_eq_ok {α : Type} {s t : State} {r : Except ErrKind α} {a : α} (h : Res.ofRead s r = .ok a t) :
    r = .ok a ∧ t = s := by
  cases r with
  | ok b => cases h; exact ⟨rfl, rfl⟩
  | error k => cases h

theorem Res.andThen_eq_ok {α β : Type} {r : Res α} {f : α → State → Res β} {b : β} {t : State}
    (h : r.andThen f = .ok b t) : ∃ a u, r = .ok a u ∧ f a u = .ok b t := by
  cases r with
  | ok a u => exact ⟨a, u, rfl, h⟩
  | raise k u => cases h

/-- Two parts that each stay in a transitive relation stay in it one after the other. -/
theorem Res.Ends.andThen_trans {α β : Type} {R : State → State → Prop} (htrans : ∀ s t u, R s t → R t u → R s u)
    {r : Res α} {f : α → State → Res β} {s : State} (hr : r.Ends (R s)) (hf : ∀ a u, r = .ok a u → (f a u).Ends (R u)) :
    (r.andThen f).Ends (R s) :=
  hr.andThen (fun _ h => h) fun a u ha hu => (hf a u ha).mono fun v => htrans s u v hu

theorem Res.Ends.andThen_moved {α β : Type} {r : Res α} {f : α → State → Res β} {s : State} (hr : r.Ends (Moved s))
    (hf : ∀ a u, (f a u).Ends (Moved u)) : (r.andThen f).Ends (Moved s) :=
  hr.andThen_trans (R := Moved) (fun _ _ _ => Moved.trans) fun a u _ => hf a u

/-- What every command keeps, whatever its outcome: the fields that are not a command's to write, and the shapes of the
others. -/
structure Executed (s t : State) : Prop where
  rest : t =
    { s with
      lsb := t.lsb
      sha := t.sha
      aes := t.aes
      zlib := t.zlib
      cbWrittenLast := t.cbWrittenLast
      localMem := t.localMem
      freeCount := t.freeCount }
  memory : s.MemoryWf → t.MemoryWf
  aes : s.AesWf → t.AesWf
  zlib : s.ZlibWf → t.ZlibWf

theorem Executed.refl (s : State) : Executed s s := ⟨rfl, id, id, id⟩

theorem Executed.trans {s t u : State} (h1 : Executed s t) (h2 : Executed t u) : Executed s u :=
  ⟨by rw [h2.rest, h1.rest], h2.memory ∘ h1.memory, h2.aes ∘ h1.aes, h2.zlib ∘ h1.zlib⟩

theorem Executed.queue {s t : State} (h : Executed s t) (q : QId) : t.queue q = s.queue q := by
  rw [h.rest]
  cases q <;> rfl
theorem Executed.params {s t : State} (h : Executed s t) : t.params = s.params := by rw [h.rest]
theorem Executed.irqLine {s t : State} (h : Executed s t) : t.irqLine = s.irqLine := by rw [h.rest]
theorem Executed.phase {s t : State} (h : Executed s t) : t.phase = s.phase := by rw [h.rest]
theorem Executed.cur {s t : State} (h : Executed s t) : t.cur = s.cur := by rw [h.rest]

theorem Res.Ends.andThen_executed {α β : Type} {r : Res α} {f : α → State → Res β} {s : State} (hr : r.Ends (Executed s))
    (hf : ∀ a u, r = .ok a u → (f a u).Ends (Executed u)) : (r.andThen f).Ends (Executed s) :=
  hr.andThen_trans (R := Executed) (fun _ _ _ => Executed.trans) hf

theorem Moved.executed {s t : State} (h : Moved s t) : Executed s t where
  rest := by rw [h.rest]
  memory := h.wf
  aes := fun hs a ha => hs a (h.aes ▸ ha)
  zlib := fun hs z hz => hs z (h.zlib ▸ hz)

theorem executed_setSha (s : State) (v : Option ShaSession) : Executed s (s.setSha v) := ⟨rfl, id, id, id⟩

theorem executed_setAes (s : State) {v : Option AesSession} (hv : ∀ a, v = some a → a.Wf) : Executed s (s.setAes v) :=
  ⟨rfl, id, fun _ => hv, id⟩

theorem executed_setZlib (s : State) {v : Option ZlibSession} (hv : ∀ z, v = some z → z.Wf) : Executed s (s.setZlib v) :=
  ⟨rfl, id, id, fun _ => hv⟩

theorem executed_bumpFree (s : State) : Executed s s.bumpFree := ⟨rfl, id, id, id⟩

theorem Res.Ends.executed {α : Type} {r : Res α} {s : State} (h : r.Ends (Moved s)) : r.Ends (Executed s) :=
  h.mono fun _ => Moved.executed

/-- The emptying of a session by an error is a change a command may make (40_dispatch.md R146). -/
theorem Res.Ends.onRaise_executed {α : Type} {r : Res α} {s : State} {f : State → State} (h : r.Ends (Executed s))
    (hf : ∀ u, Executed u (f u)) : (r.onRaise f).Ends (Executed s) := by
  cases r with
  | ok a u => exact h
  | raise k u => exact h.trans (hf u)

theorem sessionMismatch_moved (α : Type) (s : State) : (sessionMismatch s : Res α).Ends (Moved s) := by
  obtain ⟨t, ht, hm, -⟩ := sessionMismatch_raises α s
  rw [ht]
  exact hm

/-! ## PASSTHROUGH, RSA and ECC (41_passthrough.md R161, R162; 44_rsa.md R207; 45_ecc.md R219) -/

/-- A read that follows the clearing of the counter, and goes on with `f`. -/
theorem clearedRead_moved {α β : Type} (s : State) (r : Except ErrKind α) {f : α → State → Res β}
    (hf : ∀ a u, (f a u).Ends (Moved u)) : ((Res.ofRead (xferClear s) r).andThen f).Ends (Moved s) :=
  (Res.Ends.ofRead _ r (xferClear_moved s)).andThen_moved hf

/-- A read that goes on with `f`. -/
theorem read_moved {α β : Type} (s : State) (r : Except ErrKind α) {f : α → State → Res β}
    (hf : ∀ a u, (f a u).Ends (Moved u)) : ((Res.ofRead s r).andThen f).Ends (Moved s) :=
  (Res.Ends.ofRead s r (Moved.refl s)).andThen_moved hf

theorem ptCopyLoop_moved (fuel : Nat) (x : Xfer) (s : State) : (ptCopyLoop fuel x s).Ends (Moved s) := by
  induction fuel generalizing x s with
  | zero => exact Moved.refl s
  | succ n ih =>
    rw [ptCopyLoop]
    split
    · exact Moved.refl s
    · exact read_moved s _ fun p u => (xferWrite_moved p.2 p.1 u).andThen_moved fun x2 v => ih x2 v

theorem ptCopy_moved (src : Source) (dst : Place) (s : State) : (ptCopy src dst s).Ends (Moved s) :=
  (ptCopyLoop_moved _ _ _).mono fun _ => (xferClear_moved s).trans

theorem ptSwap256_moved (src : Source) (dst : Place) (s : State) : (ptSwap256 src dst s).Ends (Moved s) := by
  unfold ptSwap256
  split
  · exact clearedRead_moved s _ fun p u => xferWrite_moved p.2 p.1 u
  · exact Moved.refl s

theorem rsaCommand_moved (size : Nat) (src : Source) (dst key : Place) (s : State) :
    (rsaCommand size src dst key s).Ends (Moved s) :=
  clearedRead_moved s _ fun _ u => read_moved u _ fun p v => read_moved v _ fun c w => xferWrite_moved p.2 c w

theorem eccCommand_moved (blen rlen : Nat) (op : Bytes → Except ErrKind Bytes) (src : Source) (dst : Place) (bits : Nat)
    (s : State) : (eccCommand blen rlen op src dst bits s).Ends (Moved s) := by
  unfold eccCommand
  split
  · exact Moved.refl s
  · exact clearedRead_moved s _ fun p u => read_moved u _ fun r v => xferWrite_moved p.2 r v

/-! ## SHA (42_sha.md R173) -/

theorem shaLookup_moved (t : ShaType) (s : State) : (shaLookup t s).Ends (Moved s) := by
  unfold shaLookup
  split
  · exact Moved.refl s
  · split
    · exact Moved.refl s
    · exact sessionMismatch_moved Bytes s

theorem shaClose_executed (t : ShaType) (eom : Bool) (msg : Bytes) (x : Xfer) (s : State) :
    (shaClose t eom msg x s).Ends (Executed s) := by
  unfold shaClose
  split
  · exact (xferWrite_moved x _ s).executed.andThen_executed fun _ u _ => executed_setSha u none
  · exact executed_setSha s _

theorem shaCommand_executed (t : ShaType) (fl : MsgFlags) (src : Source) (s : State) :
    (shaCommand t fl src s).Ends (Executed s) := by
  refine Res.Ends.onRaise_executed ?_ fun u => executed_setSha u none
  refine (shaLookup_moved t s).executed.andThen_executed fun msg u _ => ?_
  exact (Res.Ends.ofRead _ _ (xferClear_moved u).executed).andThen_executed fun p v _ =>
    shaClose_executed t fl.eom p.1 p.2 v

/-! ## AES (43_aes.md R189, R190) -/

theorem aesLoop_moved (fuel : Nat) (sess : AesSession) (x : Xfer) (s : State) :
    (aesLoop fuel sess x s).Ends (Moved s) := by
  induction fuel generalizing sess x s with
  | zero => exact Moved.refl s
  | succ n ih =>
    rw [aesLoop]
    split
    · exact Moved.refl s
    · exact read_moved s _ fun p u => (xferWriteSome_moved p.2 _ u).andThen_moved fun x2 v => ih _ x2 v

theorem aesLoop_wf {fuel : Nat} {sess : AesSession} {x : Xfer} {s t : State} {q : AesSession × Xfer} (h : sess.Wf)
    (ht : aesLoop fuel sess x s = .ok q t) : q.1.Wf := by
  induction fuel generalizing sess x s with
  | zero => cases ht; exact h
  | succ n ih =>
    rw [aesLoop] at ht
    split at ht
    · cases ht; exact h
    · obtain ⟨p, u, -, ht⟩ := Res.andThen_eq_ok ht
      obtain ⟨x2, v, -, ht⟩ := Res.andThen_eq_ok ht
      exact ih (aesFeed_wf h p.1) ht

theorem aesStart_wf {p : AesParams} (hp : p.klen = 16 ∨ p.klen = 32) {r : AesReq} {s : State} {sess : AesSession}
    (h : aesStart p r s = .ok sess) : sess.Wf := by
  unfold aesStart at h
  split at h
  · cases h
  · rename_i kb hkb
    obtain rfl := Except.ok.inj h
    obtain ⟨-, rfl⟩ := memRead_ok hkb
    refine ⟨by simpa using hp, ?_, by simp⟩
    cases p.mode <;> simp [readIvSlot]

theorem aesClose_executed (eom : Bool) {sess : AesSession} (h : sess.Wf) (x : Xfer) (s : State) :
    (aesClose eom sess x s).Ends (Executed s) := by
  unfold aesClose
  split
  · split
    · exact executed_setAes s fun a ha => by cases ha
    · exact Executed.refl s
  · exact executed_setAes s fun a ha => by cases ha; exact h

/-- A well-formed session fed with the source and closed. -/
theorem aesRun_executed (fuel : Nat) (eom : Bool) {sess : AesSession} (h : sess.Wf) (x : Xfer) (s : State) :
    ((aesLoop fuel sess x s).andThen fun q s2 => aesClose eom q.1 q.2 s2).Ends (Executed s) :=
  (aesLoop_moved fuel sess x s).executed.andThen_executed fun q u hq => aesClose_executed eom (aesLoop_wf h hq) q.2 u

theorem aesLocal_executed {p : AesParams} (hp : p.klen = 16 ∨ p.klen = 32) (r : AesReq) {s : State} (h : s.AesWf) :
    (aesLocal p r s).Ends (Executed s) := by
  unfold aesLocal
  split
  · refine (Res.Ends.ofRead _ _ (xferClear_moved s).executed).andThen_executed fun sess u hu => ?_
    exact aesRun_executed _ _ (aesStart_wf hp (Res.ofRead_eq_ok hu).1) _ u
  · rename_i sess hsess
    split
    · have hopen : s.aes = some sess := by
        split at hsess
        · cases hsess
        · exact hsess
      exact (aesRun_executed _ _ (h sess hopen) _ _).mono fun _ => (xferClear_moved s).executed.trans
    · exact (sessionMismatch_moved Xfer s).executed

theorem aesProxy_executed (dw0 : Nat) (p : AesParams) (r : AesReq) (s : State) :
    (aesProxy dw0 p r s).Ends (Executed s) := by
  refine (Res.Ends.ofRead _ _ (xferClear_moved s).executed).andThen_executed fun q u _ => ?_
  dsimp only
  split
  · exact executed_bumpFree u
  · exact (xferWriteSome_moved q.2 _ _).executed.mono fun _ => (executed_bumpFree u).trans

theorem aesCommand_executed (dw0 : Nat) {p : AesParams} (hp : p.klen = 16 ∨ p.klen = 32) (r : AesReq) {s : State}
    (h : s.AesWf) : (aesCommand dw0 p r s).Ends (Executed s) := by
  refine Res.Ends.onRaise_executed ?_ fun u => executed_setAes u fun a ha => by cases ha
  split
  · exact aesProxy_executed dw0 p r s
  · exact aesLocal_executed hp r h

/-! ## ZLIB (46_zlib.md R241 to R249) -/

theorem zlibFresh_wf : zlibFresh.Wf := by decide

theorem zlibStart_wf (init : Bool) {s : State} (h : s.ZlibWf) : (zlibStart init s).Wf := by
  unfold zlibStart
  split
  · exact zlibFresh_wf
  · cases hz : s.zlib with
    | none => exact zlibFresh_wf
    | some z => exact h z hz

theorem zlibEmit_moved (v obuf : Bytes) (x : Xfer) (s : State) : (zlibEmit v obuf x s).Ends (Moved s) := by
  induction v generalizing obuf x s with
  | nil => exact Moved.refl s
  | cons b t ih =>
    rw [zlibEmit]
    split
    · exact (xferWrite_moved x _ s).andThen_moved fun x2 u => ih [] x2 u
    · exact ih _ x s

theorem zlibLoop_moved (fuel : Nat) (sess : ZlibSession) (obuf : Bytes) (x : Xfer) (s : State) :
    (zlibLoop fuel sess obuf x s).Ends (Moved s) := by
  induction fuel generalizing sess obuf x s with
  | zero => exact Moved.refl s
  | succ n ih =>
    rw [zlibLoop]
    split
    · exact Moved.refl s
    · refine read_moved s _ fun p u => (zlibEmit_moved _ obuf p.2 u).andThen_moved fun q v => ?_
      split
      · exact Moved.refl v
      · exact ih _ q.1 q.2 v

/-- A piece of input whose decoding is no error leaves a session of the shape of R22. -/
theorem zlibLoop_wf {fuel : Nat} {sess : ZlibSession} {obuf : Bytes} {x : Xfer} {s t : State}
    {q : ZlibSession × Bytes × Xfer} (h : sess.Wf) (ht : zlibLoop fuel sess obuf x s = .ok q t) : q.1.Wf := by
  induction fuel generalizing sess obuf x s with
  | zero => cases ht; exact h
  | succ n ih =>
    rw [zlibLoop] at ht
    split at ht
    · cases ht; exact h
    · obtain ⟨p, u, -, ht⟩ := Res.andThen_eq_ok ht
      obtain ⟨o, v, -, ht⟩ := Res.andThen_eq_ok ht
      split at ht
      · cases ht
      · rename_i hgood
        exact ih ⟨rfl, hgood⟩ ht

theorem zlibCommand_executed (fl : MsgFlags) (src : Source) (dst : Place) {s : State} (h : s.ZlibWf) :
    (zlibCommand fl src dst s).Ends (Executed s) := by
  refine Res.Ends.onRaise_executed ?_ fun u => executed_setZlib u fun z hz => by cases hz
  have hloop := (zlibLoop_moved src.cbSrc (zlibStart fl.init s) [] (xferOf src dst none false) (xferClear s)).mono
    fun _ => (xferClear_moved s).trans
  refine hloop.executed.andThen_executed fun q u hq => ?_
  have hwf : q.1.Wf := zlibLoop_wf (zlibStart_wf fl.init h) hq
  refine (xferWriteSome_moved _ _ u).executed.andThen_executed fun _ v _ => executed_setZlib v fun z hz => ?_
  split at hz
  · cases hz
  · exact Option.some.inj hz ▸ hwf

/-! ## Every command (40_dispatch.md R142) -/

/-- Every arm of the dispatch retires a command that keeps what `Executed` says. -/
theorem exec_retires (i : Instr) {s : State} (ha : s.AesWf) (hz : s.ZlibWf) :
    ∃ r : Res Xfer, exec i s = retire r ∧ r.Ends (Executed s) := by
  cases i with
  | ptCopy fl src dst => exact ⟨_, rfl, (ptCopy_moved src dst s).executed⟩
  | ptSwap256 fl src dst => exact ⟨_, rfl, (ptSwap256_moved src dst s).executed⟩
  | sha256 fl src n => exact ⟨_, rfl, shaCommand_executed _ fl src s⟩
  | sha384 fl src n => exact ⟨_, rfl, shaCommand_executed _ fl src s⟩
  | aes128EcbDec fl src dst key => exact ⟨_, rfl, aesCommand_executed _ (.inl rfl) _ ha⟩
  | aes128EcbEnc fl src dst key => exact ⟨_, rfl, aesCommand_executed _ (.inl rfl) _ ha⟩
  | aes128CbcDec fl src dst key => exact ⟨_, rfl, aesCommand_executed _ (.inl rfl) _ ha⟩
  | aes128CbcEnc fl src dst key => exact ⟨_, rfl, aesCommand_executed _ (.inl rfl) _ ha⟩
  | aes256EcbDec fl src dst key => exact ⟨_, rfl, aesCommand_executed _ (.inr rfl) _ ha⟩
  | aes256EcbEnc fl src dst key => exact ⟨_, rfl, aesCommand_executed _ (.inr rfl) _ ha⟩
  | aes256CbcDec fl src dst key => exact ⟨_, rfl, aesCommand_executed _ (.inr rfl) _ ha⟩
  | aes256CbcEnc fl src dst key => exact ⟨_, rfl, aesCommand_executed _ (.inr rfl) _ ha⟩
  | rsaModexp2048 fl src dst key => exact ⟨_, rfl, (rsaCommand_moved _ src dst key s).executed⟩
  | rsaModexp4096 fl src dst key => exact ⟨_, rfl, (rsaCommand_moved _ src dst key s).executed⟩
  | eccMulf fl src dst bits => exact ⟨_, rfl, (eccCommand_moved _ _ _ src dst bits s).executed⟩
  | eccAddf fl src dst bits => exact ⟨_, rfl, (eccCommand_moved _ _ _ src dst bits s).executed⟩
  | eccInvf fl src dst bits => exact ⟨_, rfl, (eccCommand_moved _ _ _ src dst bits s).executed⟩
  | eccMulc fl src dst bits => exact ⟨_, rfl, (eccCommand_moved _ _ _ src dst bits s).executed⟩
  | eccMuladdc fl src dst bits => exact ⟨_, rfl, (eccCommand_moved _ _ _ src dst bits s).executed⟩
  | zlibInflate fl src dst => exact ⟨_, rfl, zlibCommand_executed fl src dst hz⟩

end Sys2Proof.Machine
end

section
/-! PROOFS. The registers of a queue keep RUN 0 and the reserved interrupt bits 0, whoever writes them: the controller
(47_queue_controller.md R256 to R260) or firmware (48_mmio.md R282 to R288). -/

namespace Sys2Proof.Machine

/-! ## Bits of a word -/

theorem word_and_not_and (x m : Word) : x &&& ~~~m &&& m = 0 := by
  simp [BitVec.and_assoc]

/-- Clearing bits sets none. -/
theorem word_and_and_eq_zero {x m : Word} (h : x &&& m = 0) (y : Word) : x &&& y &&& m = 0 := by
  simp [BitVec.and_assoc, BitVec.and_comm y, ← BitVec.and_assoc x, h]

theorem word_or_and_eq_zero {x y m : Word} (hx : x &&& m = 0) (hy : y &&& m = 0) : (x ||| y) &&& m = 0 := by
  simp [BitVec.and_or_distrib_right, hx, hy]

theorem bitMask_and_bitMask {i j : Fin 32} (h : i ≠ j) : bitMask i &&& bitMask j = 0 := by
  have hij : i.val ≠ j.val := fun e => h (Fin.ext e)
  unfold bitMask
  ext k hk
  have hone : k = i.val → ¬k = j.val := by omega
  simpa using hone

/-- Each of the four interrupt bits is no reserved bit of `ists` (48_mmio.md R279). -/
theorem interrupt_not_reserved (b : QueueBits) {i : Fin 32}
    (h : i = b.completion ∨ i = b.error ∨ i = b.qStop ∨ i = b.qEmpty) : bitMask i &&& ~~~b.interrupts = 0 := by
  unfold QueueBits.interrupts bitMask
  ext k hk
  have hone : k = i.val → ¬k = b.completion.val → ¬k = b.error.val → ¬k = b.qStop.val → k = b.qEmpty.val := by
    rcases h with rfl | rfl | rfl | rfl <;> omega
  simpa using hone

/-- The bits RUN and HALT of `control` are distinct (R279). -/
theorem halt_ne_run {b : QueueBits} (h : b.WF) : b.halt ≠ b.run := by
  intro e
  have hapart := (List.pairwise_cons.1 h.control.2).1 ⟨b.halt, 1⟩ (by simp)
  simp only [apart, e] at hapart
  omega

/-! ## The writes of the controller and of firmware -/

variable {b : QueueBits} {q : Queue}

theorem Queue.Wf.start (hb : b.WF) : (Queue.start b).Wf b := ⟨bitMask_and_bitMask (halt_ne_run hb), BitVec.zero_and⟩

theorem Queue.Wf.started (h : q.Wf b) : (q.started b).Wf b := ⟨word_and_and_eq_zero h.1 _, h.2⟩

theorem Queue.Wf.succeeded (h : q.Wf b) : (q.succeeded b).Wf b :=
  ⟨h.1, word_or_and_eq_zero h.2 (interrupt_not_reserved b (.inl rfl))⟩

theorem Queue.Wf.failed (h : q.Wf b) (err : BitVec 6) : (q.failed b err).Wf b :=
  ⟨h.1, word_or_and_eq_zero h.2 (interrupt_not_reserved b (.inr (.inl rfl)))⟩

theorem Queue.Wf.stopped (h : q.Wf b) (hb : b.WF) : (q.stopped b).Wf b := by
  refine ⟨word_or_and_eq_zero h.1 (bitMask_and_bitMask (halt_ne_run hb)), word_or_and_eq_zero
    (word_or_and_eq_zero h.2 (interrupt_not_reserved b (.inr (.inr (.inl rfl))))) ?_⟩
  split
  · exact interrupt_not_reserved b (.inr (.inr (.inr rfl)))
  · exact BitVec.zero_and

theorem Queue.Wf.writeReg (h : q.Wf b) (r : QReg) (v : Word) : (q.writeReg b r v).Wf b := by
  cases r with
  | control => exact ⟨word_and_not_and v _, h.2⟩
  | ists => exact ⟨h.1, word_and_and_eq_zero h.2 _⟩
  | tail => exact h
  | head => exact h
  | ien => exact h
  | status => exact h

end Sys2Proof.Machine
end

section
/-! PROOFS. What an action of the host can do (48_mmio.md R275 to R305), said once: it stores at most one register, then the
access ends or a drain begins; only the host's own store reaches LOCAL memory. -/

namespace Sys2Proof.Machine

/-- What an MMIO access has stored before its answer or its trigger test (R277, R282 to R288): nothing, the number of a free
value, or one register. -/
inductive Stored (s : State) : State → Prop where
  | nothing : Stored s s
  | free : Stored s s.bumpFree
  | register (q : QId) (r : QReg) (v : Word) : Stored s (s.setQueue q ((s.queue q).writeReg s.params.bits r v))

/-- How an MMIO access goes on from a state `u`: it answers, or it is a trigger of a queue (R289, R290). -/
def Answers (u t : State) : Prop := (∃ d, t = respond d u) ∨ ∃ q reply, t = trigger q reply u

theorem primaryRead_cases (off width : Nat) (s : State) : ∃ u, Stored s u ∧ Answers u (primaryRead off width s) := by
  unfold primaryRead
  split
  · split
    · exact ⟨s, .nothing, .inr ⟨_, _, rfl⟩⟩
    · exact ⟨s, .nothing, .inl ⟨_, rfl⟩⟩
    · exact ⟨s, .nothing, .inl ⟨_, rfl⟩⟩
  · exact ⟨s.bumpFree, .free, .inl ⟨_, rfl⟩⟩

theorem primaryWrite_cases (off width value : Nat) (s : State) :
    ∃ u, Stored s u ∧ Answers u (primaryWrite off width value s) := by
  unfold primaryWrite
  split
  · split
    · rename_i q r _
      refine ⟨_, .register q r (BitVec.ofNat 32 value), ?_⟩
      dsimp only
      split
      · exact .inr ⟨_, _, rfl⟩
      · exact .inl ⟨_, rfl⟩
    · exact ⟨s, .nothing, .inl ⟨_, rfl⟩⟩
    · exact ⟨s, .nothing, .inl ⟨_, rfl⟩⟩
  · exact ⟨s, .nothing, .inl ⟨_, rfl⟩⟩

theorem secondaryRead_cases (off width : Nat) (s : State) : ∃ u, Stored s u ∧ Answers u (secondaryRead off width s) := by
  unfold secondaryRead
  split
  · exact ⟨s, .nothing, .inl ⟨_, rfl⟩⟩
  · exact ⟨s.bumpFree, .free, .inl ⟨_, rfl⟩⟩

/-- Everything an MMIO access can do in its first step. -/
theorem accept_cases {e : HostEvent} (he : e.isMmio = true) (s : State) : ∃ u, Stored s u ∧ Answers u (accept e s) := by
  cases e with
  | primaryRead off width => exact primaryRead_cases off width s
  | primaryWrite off width value => exact primaryWrite_cases off width value s
  | secondaryRead off width => exact secondaryRead_cases off width s
  | secondaryWrite off width value => exact ⟨s, .nothing, .inl ⟨_, rfl⟩⟩
  | localStore addr data => cases he

/-- The host's own store (R305): nothing, or bytes inside the address space put into LOCAL memory. -/
theorem localStore_cases (addr : Nat) (data : Bytes) (s : State) :
    localStore addr data s = s ∨
      addr + data.length ≤ addrLimit ∧ localStore addr data s = s.setLocal (s.localMem.writeBytes addr data) := by
  unfold localStore pspWrite
  split
  · split
    · exact .inr ⟨‹_›, rfl⟩
    · exact .inl rfl
  · exact .inl rfl

/-! ## No host access moves data (10_state.md R11) -/

/-- `t` has the memories, the sessions, the counter and the parameters of `s`. -/
structure SameData (s t : State) : Prop where
  rest : t =
    { s with
      q0 := t.q0
      q1 := t.q1
      irqLine := t.irqLine
      pending := t.pending
      responses := t.responses
      phase := t.phase
      cur := t.cur
      freeCount := t.freeCount }

theorem SameData.trans {s t u : State} (h1 : SameData s t) (h2 : SameData t u) : SameData s u :=
  ⟨by rw [h2.rest, h1.rest]⟩

theorem SameData.lsb {s t : State} (h : SameData s t) : t.lsb = s.lsb := by rw [h.rest]
theorem SameData.localMem {s t : State} (h : SameData s t) : t.localMem = s.localMem := by rw [h.rest]
theorem SameData.aes {s t : State} (h : SameData s t) : t.aes = s.aes := by rw [h.rest]
theorem SameData.zlib {s t : State} (h : SameData s t) : t.zlib = s.zlib := by rw [h.rest]
theorem SameData.cbWrittenLast {s t : State} (h : SameData s t) : t.cbWrittenLast = s.cbWrittenLast := by rw [h.rest]
theorem SameData.params {s t : State} (h : SameData s t) : t.params = s.params := by rw [h.rest]
theorem SameData.sessions {s t : State} (h : SameData s t) : SameSessions s t := by
  rw [h.rest]
  exact ⟨rfl, rfl, rfl⟩

theorem sameData_setPending (s : State) (l : List HostEvent) : SameData s (s.setPending l) := ⟨rfl⟩
theorem sameData_setPhase (s : State) (p : Phase) : SameData s (s.setPhase p) := ⟨rfl⟩
theorem sameData_setCur (s : State) (q : QId) : SameData s (s.setCur q) := ⟨rfl⟩
theorem sameData_bumpFree (s : State) : SameData s s.bumpFree := ⟨rfl⟩
theorem sameData_respond (d : ReadData) (s : State) : SameData s (respond d s) := ⟨rfl⟩
theorem sameData_setQueue (s : State) (q : QId) (v : Queue) : SameData s (s.setQueue q v) := by cases q <;> exact ⟨rfl⟩

theorem sameData_trigger (q : QId) (reply : Reply) (s : State) : SameData s (trigger q reply s) := by
  unfold trigger
  split
  · exact ((sameData_setCur s q).trans (sameData_setQueue _ q _)).trans (sameData_setPhase _ _)
  · exact sameData_respond _ s

theorem Stored.sameData {s u : State} (h : Stored s u) : SameData s u := by
  cases h with
  | nothing => exact ⟨rfl⟩
  | free => exact sameData_bumpFree s
  | register q r v => exact sameData_setQueue s q _

theorem Answers.sameData {u t : State} (h : Answers u t) : SameData u t := by
  rcases h with ⟨d, rfl⟩ | ⟨q, reply, rfl⟩
  · exact sameData_respond d u
  · exact sameData_trigger q reply u

theorem sameData_accept {e : HostEvent} (he : e.isMmio = true) (s : State) : SameData s (accept e s) := by
  obtain ⟨u, hu, ht⟩ := accept_cases he s
  exact hu.sameData.trans ht.sameData

/-- The host's own store reaches nothing but LOCAL memory (R305). -/
theorem localStore_device (addr : Nat) (data : Bytes) (s : State) :
    (localStore addr data s).lsb = s.lsb ∧ SameSessions s (localStore addr data s) ∧
      (localStore addr data s).cbWrittenLast = s.cbWrittenLast ∧ (localStore addr data s).params = s.params := by
  rcases localStore_cases addr data s with he | ⟨-, he⟩ <;> rw [he] <;> exact ⟨rfl, ⟨rfl, rfl, rfl⟩, rfl, rfl⟩

/-- Settles O53, by the cases of a host action. -/
theorem hostAccessesMoveNoData : Obligations.HostAccessesMoveNoData := by
  intro s t hp ht
  rw [step, hp] at ht
  obtain rfl := Host.Outcome.next.inj ht
  unfold serveHost
  split
  · exact ⟨rfl, ⟨rfl, rfl, rfl⟩, rfl, rfl, fun _ => rfl⟩
  · rename_i e rest hpend
    cases hm : e.isMmio with
    | true =>
      have h := (sameData_setPending s rest).trans (sameData_accept hm (s.setPending rest))
      exact ⟨h.lsb, h.sessions, h.cbWrittenLast, h.params, fun _ => h.localMem⟩
    | false =>
      cases e with
      | localStore a v =>
        obtain ⟨hlsb, hsessions, hcount, hparams⟩ := localStore_device a v (s.setPending rest)
        exact ⟨hlsb, hsessions, hcount, hparams, fun hno => absurd hpend (hno a v rest)⟩
      | _ => cases hm

end Sys2Proof.Machine
end

section
/-! PROOFS. The invariant of the machine (10_state.md R27 and R10 to R24): every host action and every turn of a drain keeps
it, and a run starts with it. -/

namespace Sys2Proof.Machine

/-! ## The part of the invariant that does not speak of the access in progress -/

/-- The shapes of the memories, queues, sessions and parameters; the interrupt line and the drain are left out. -/
structure State.Shaped (s : State) : Prop where
  memory : s.MemoryWf
  queues : ∀ q, (s.queue q).Wf s.params.bits
  aes : s.AesWf
  zlib : s.ZlibWf
  params : s.params.WF

theorem State.Inv.shaped {s : State} (h : s.Inv) : s.Shaped where
  memory := h.memory
  queues q := by
    obtain ⟨h0, h1⟩ := h.queues
    cases q
    · exact h0
    · exact h1
  aes := h.aes
  zlib := h.zlib
  params := h.params

theorem State.Shaped.inv {s : State} (h : s.Shaped) (hirq : s.IrqWf) (hdrain : s.DrainWf) : s.Inv :=
  ⟨h.memory, ⟨h.queues .q0, h.queues .q1⟩, hirq, hdrain, h.aes, h.zlib, h.params⟩

/-- A state with the same data and well-formed queues is shaped. -/
theorem State.Shaped.of_sameData {s t : State} (h : s.Shaped) (hst : SameData s t)
    (hq : ∀ q, (t.queue q).Wf s.params.bits) : t.Shaped := by
  refine ⟨?_, ?_, ?_, ?_, ?_⟩
  · rw [State.MemoryWf, hst.lsb, hst.localMem]
    exact h.memory
  · rw [hst.params]
    exact hq
  · rw [State.AesWf, hst.aes]
    exact h.aes
  · rw [State.ZlibWf, hst.zlib]
    exact h.zlib
  · rw [hst.params]
    exact h.params

theorem State.Shaped.setQueue {s : State} (h : s.Shaped) (q : QId) {v : Queue} (hv : v.Wf s.params.bits) :
    (s.setQueue q v).Shaped := by
  refine h.of_sameData (sameData_setQueue s q v) fun r => ?_
  by_cases hr : r = q
  · subst hr
    rw [State.setQueue_queue]
    exact hv
  · rw [State.setQueue_queue_ne s v hr]
    exact h.queues r

theorem State.Shaped.setPhase {s : State} (h : s.Shaped) (p : Phase) : (s.setPhase p).Shaped :=
  h.of_sameData (sameData_setPhase s p) fun q => by rw [State.setPhase_queue]; exact h.queues q

theorem State.Shaped.setCur {s : State} (h : s.Shaped) (c : QId) : (s.setCur c).Shaped :=
  h.of_sameData (sameData_setCur s c) fun q => by rw [State.setCur_queue]; exact h.queues q

/-! ## The end of an access, and the beginning of a drain -/

/-- An answered access leaves the line at its level and no drain. -/
theorem respond_inv {s : State} (h : s.Shaped) (hp : s.phase = .idle) (d : ReadData) : (respond d s).Inv :=
  (h.of_sameData (sameData_respond d s) fun q => by rw [respond_queue]; exact h.queues q).inv (fun _ => rfl) (.inl hp)

/-- A drain that begins has its queue enabled and HALT clear (47_queue_controller.md R256). -/
theorem trigger_inv {s : State} (h : s.Shaped) (hp : s.phase = .idle) (q : QId) (reply : Reply) :
    (trigger q reply s).Inv := by
  unfold trigger
  split
  · rename_i hen
    refine (((h.setCur q).setQueue q (h.queues q).started).setPhase _).inv (fun hidle => by cases hidle) (.inr ?_)
    simp only [State.setPhase_queue, State.setPhase_cur, State.setQueue_cur, State.setCur_cur, State.setQueue_queue,
      State.setPhase_params, State.setQueue_params, State.setCur_params, Queue.started_enabled, Queue.started_control]
    exact ⟨hen, word_and_not_and _ _⟩
  · exact respond_inv h hp _

theorem Answers.inv {u t : State} (h : Answers u t) (hu : u.Shaped) (hp : u.phase = .idle) : t.Inv := by
  rcases h with ⟨d, rfl⟩ | ⟨q, reply, rfl⟩
  · exact respond_inv hu hp d
  · exact trigger_inv hu hp q reply

theorem Stored.shaped {s u : State} (h : Stored s u) (hs : s.Shaped) : u.Shaped := by
  cases h with
  | nothing => exact hs
  | free => exact hs.of_sameData (sameData_bumpFree s) fun q => by rw [State.bumpFree_queue]; exact hs.queues q
  | register q r v => exact hs.setQueue q ((hs.queues q).writeReg r v)

theorem Stored.phase {s u : State} (h : Stored s u) : u.phase = s.phase := by
  cases h with
  | nothing => rfl
  | free => rfl
  | register q r v => exact State.setQueue_phase s q _

/-! ## The actions of the host -/

theorem localStore_inv {s : State} (h : s.Inv) (addr : Nat) (data : Bytes) : (localStore addr data s).Inv := by
  rcases localStore_cases addr data s with he | ⟨hin, he⟩
  · rw [he]
    exact h
  · rw [he]
    exact { h with memory := ⟨h.memory.1, Memory.wf_writeBytes h.memory.2 addr data hin⟩ }

theorem accept_inv {s : State} (h : s.Inv) (hp : s.phase = .idle) (e : HostEvent) : (accept e s).Inv := by
  cases hm : e.isMmio with
  | true =>
    obtain ⟨u, hu, ht⟩ := accept_cases hm s
    exact ht.inv (hu.shaped h.shaped) (hu.phase.trans hp)
  | false =>
    cases e with
    | localStore addr data => exact localStore_inv h addr data
    | _ => cases hm

theorem serveHost_inv {s : State} (h : s.Inv) (hp : s.phase = .idle) : (serveHost s).Inv := by
  unfold serveHost
  split
  · exact h
  · rename_i e rest _
    have hrest : (s.setPending rest).Inv := { h with }
    exact accept_inv hrest hp e

/-! ## The turns of a drain -/

/-- The stop of a drain ends its access (47_queue_controller.md R260, 48_mmio.md R293). -/
theorem finishAccess_stopDrain_inv {s : State} (h : s.Shaped) {reply : Reply} (hp : s.phase = .draining reply) :
    (finishAccess (stopDrain s)).Inv := by
  have hstop : (stopDrain s).Shaped := h.setQueue s.cur ((h.queues s.cur).stopped h.params.bits)
  rw [finishAccess_draining (r := reply) _ (by simp [stopDrain, hp])]
  exact respond_inv (hstop.setPhase .idle) rfl _

theorem takeError_inv {s : State} (h : s.Shaped) {reply : Reply} (hp : s.phase = .draining reply) (k : ErrKind) :
    (takeError k s).Inv :=
  finishAccess_stopDrain_inv (h.setQueue s.cur ((h.queues s.cur).failed _)) ((State.setQueue_phase s _ _).trans hp)

/-- A command that succeeded leaves its queue enabled and HALT clear (R258). -/
theorem complete_inv {s : State} (h : s.Inv) {reply : Reply} (hp : s.phase = .draining reply) : (complete s).Inv := by
  have hne : s.phase ≠ .idle := by rw [hp]; intro e; cases e
  obtain ⟨hen, hhalt⟩ := h.drain.resolve_left hne
  refine (h.shaped.setQueue s.cur (h.shaped.queues s.cur).succeeded).inv (fun hidle => ?_) (.inr ?_)
  · exact absurd ((State.setQueue_phase s _ _).symm.trans hidle) hne
  · simp only [State.setQueue_queue, State.setQueue_cur, State.setQueue_params, Queue.succeeded_enabled,
      Queue.succeeded_control]
    exact ⟨hen, hhalt⟩

theorem Executed.inv {s t : State} (h : Executed s t) (hs : s.Inv) : t.Inv := by
  have hq0 : t.q0 = s.q0 := h.queue .q0
  have hq1 : t.q1 = s.q1 := h.queue .q1
  refine ⟨h.memory hs.memory, ?_, ?_, ?_, h.aes hs.aes, h.zlib hs.zlib, ?_⟩
  · rw [State.QueuesWf, hq0, hq1, h.params]
    exact hs.queues
  · rw [State.IrqWf, h.phase, h.irqLine, irqLevel, hq0, hq1]
    exact hs.irq
  · rw [State.DrainWf, h.phase, h.cur, h.queue, h.params]
    exact hs.drain
  · rw [h.params]
    exact hs.params

theorem exec_inv {s t : State} (h : s.Inv) {reply : Reply} (hp : s.phase = .draining reply) (i : Instr)
    (ht : exec i s = .next t) : t.Inv := by
  obtain ⟨r, hr, hends⟩ := exec_retires i h.aes h.zlib
  obtain ⟨u, hu, hu'⟩ := retire_next r hends
  have hui : u.Inv := hu.inv h
  have hup : u.phase = .draining reply := hu.phase.trans hp
  rw [hr] at ht
  rcases hu' with e | ⟨k, e⟩
  · cases e.symm.trans ht
    exact complete_inv hui hup
  · cases e.symm.trans ht
    exact takeError_inv hui.shaped hup k

theorem drainStep_inv {s t : State} (h : s.Inv) {reply : Reply} (hp : s.phase = .draining reply)
    (ht : drainStep s = .next t) : t.Inv := by
  unfold drainStep at ht
  split at ht
  · obtain rfl := Host.Outcome.next.inj ht
    exact takeError_inv h.shaped hp _
  · split at ht
    · obtain rfl := Host.Outcome.next.inj ht
      exact takeError_inv h.shaped hp _
    · exact exec_inv h hp _ ht

/-! ## The start of a run (R28) -/

theorem start_inv {p : Params} (hp : p.WF) {lsbInit localInit : Memory} (hl : lsbInit.wf lsbBytes = true)
    (hm : localInit.wf addrLimit = true) : (State.start p lsbInit localInit).Inv where
  memory := ⟨hl, hm⟩
  queues := ⟨.start hp.bits, .start hp.bits⟩
  irq _ := by simp [irqLevel, Queue.wantsIrq]
  drain := .inl rfl
  aes a ha := by cases ha
  zlib z hz := by cases hz
  params := hp

/-! ## The statements -/

/-- Settles O57: an idle machine serves the host, a draining one stops, takes an error or retires a command. -/
theorem stepKeepsTheInvariant : Obligations.StepKeepsTheInvariant := by
  intro s t h ht
  unfold step at ht
  split at ht
  · rename_i hp
    obtain rfl := Host.Outcome.next.inj ht
    exact serveHost_inv h hp
  · rename_i reply hp
    split at ht
    · obtain rfl := Host.Outcome.next.inj ht
      exact finishAccess_stopDrain_inv h.shaped hp
    · exact drainStep_inv h hp ht

/-- Settles O58: `State.reset` is the start with the default parameters and blank memories. -/
theorem resetHasTheInvariant : Obligations.ResetHasTheInvariant :=
  ⟨start_inv Laws.default_params_wf rfl rfl, fun _ _ _ hp hl hm => start_inv hp hl hm⟩

/-- Settles O59: both queues are `Queue.start` at the default bits. -/
theorem resetValues : Obligations.ResetValues := by
  refine ⟨fun q => ?_, rfl, rfl, rfl, rfl, rfl⟩
  rw [State.reset, State.start_queue]
  rfl

end Sys2Proof.Machine
end

section
/-! PROOFS. The memory gateway and the transfer context (20_memory.md R50 to R64): which accesses fail and with which kind, and
what a write leaves, forward or downward. -/

namespace Sys2Proof.Machine

/-! ## Accesses that are not served (R52 to R59) -/

theorem State.serves_sb_iff {s : State} {a n : Nat} (hn : n ≠ 0) :
    s.serves .sb a n = true ↔ a + n ≤ 4096 ∧ a < 4096 := by
  simp [State.serves, hn, and_comm]

/-- The kind that the gateway raises for an access of `n` bytes at `a` that it does not serve: no state decides it. -/
def refusalKind (mt : MemType) (a n : Nat) : ErrKind :=
  match mt with
  | .system => .unsupported
  | .code3 => .unsupported
  | .sb => .outOfRange
  | .localMem => if addrLimit < a + n then .outOfRange else .engineError

theorem lsbInRange_of_not_serves {s : State} {a n : Nat} (hn : n ≠ 0) (h : s.serves .sb a n = false) :
    lsbInRange a n = false := by
  rw [← Bool.not_eq_true, lsbInRange_iff, and_comm, ← State.serves_sb_iff (s := s) hn, h]
  exact Bool.false_ne_true

/-- LOCAL memory below 2^48 is refused by the I/O manager alone (R54, R59). -/
theorem mappedRange_of_not_serves {s : State} {a n : Nat} (hn : n ≠ 0) (h : s.serves .localMem a n = false)
    (ha : a + n ≤ addrLimit) : mappedRange s.params a n = false := by
  have hlimit : a + n ≤ 2 ^ 48 := ha
  simpa only [State.serves, beq_eq_false_iff_ne.2 hn, decide_eq_true hlimit, Bool.false_or, Bool.true_and] using h

theorem refusalKind_localMem (a n : Nat) :
    refusalKind .localMem a n = if a + n ≤ addrLimit then .engineError else .outOfRange := by
  by_cases h : a + n ≤ addrLimit
  · rw [refusalKind, if_pos h, if_neg (Nat.not_lt.2 h)]
  · rw [refusalKind, if_neg h, if_pos (Nat.not_le.1 h)]

theorem memRead_of_not_serves {s : State} {mt : MemType} {a n : Nat} (hn : n ≠ 0) (h : s.serves mt a n = false) :
    memRead s mt a n = .error (refusalKind mt a n) := by
  cases mt with
  | system => rfl
  | code3 => rfl
  | sb => simp [memRead, lsbInRange_of_not_serves hn h, refusalKind]
  | localMem =>
    rw [refusalKind_localMem]
    by_cases ha : a + n ≤ addrLimit
    · simp [memRead, pspRead, ha, mappedRange_of_not_serves hn h ha]
    · simp [memRead, ha]

theorem memWrite_of_not_serves {s : State} {mt : MemType} {a : Nat} {v : Bytes} (hv : v ≠ [])
    (h : s.serves mt a v.length = false) : memWrite s mt a v = .error (refusalKind mt a v.length) := by
  have hn : v.length ≠ 0 := (List.length_pos_iff.2 hv).ne'
  cases mt with
  | system => rfl
  | code3 => rfl
  | sb => simp [memWrite, lsbInRange_of_not_serves hn h, refusalKind]
  | localMem =>
    rw [refusalKind_localMem]
    by_cases ha : a + v.length ≤ addrLimit
    · simp [memWrite, pspWrite, ha, mappedRange_of_not_serves hn h ha]
    · simp [memWrite, ha]

/-! ## What a write leaves -/

/-- From `s` to `t` the bytes `v` were stored at `d` and counted, and nothing else happened (R53, 10_state.md R23). -/
structure Wrote (s t : State) (d : Place) (v : Bytes) : Prop where
  moved : Moved s t
  count : t.cbWrittenLast =
    if d.mt = .localMem then s.cbWrittenLast + BitVec.ofNat 32 v.length else s.cbWrittenLast
  bytes : ∀ m x, t.byteAt m x =
    if m = d.mt ∧ d.addr ≤ x ∧ x < d.addr + v.length then v.getD (x - d.addr) 0 else s.byteAt m x

theorem memWrite_wrote {s : State} {mt : MemType} {a : Nat} {v : Bytes} (hw : s.MemoryWf) (hv : v ≠ [])
    (h : s.serves mt a v.length = true) : ∃ t, memWrite s mt a v = .ok t ∧ Wrote s t ⟨a, mt⟩ v := by
  obtain ⟨t, ht⟩ := memWrite_of_serves hv h
  obtain ⟨-, hmoved, hcount, hbytes⟩ := memWrite_ok ht
  exact ⟨t, ht, hmoved, hcount, hbytes hw⟩

namespace Wrote

theorem nil (s : State) (d : Place) : Wrote s s d [] where
  moved := .refl s
  count := by simp
  bytes m x := by rw [if_neg (by simp only [List.length_nil]; omega)]

/-- The stored bytes are found in their places. -/
theorem bytesAt {s t : State} {d : Place} {v : Bytes} (h : Wrote s t d v) : t.bytesAt d.mt d.addr v.length = v := by
  refine bytes_ext (State.bytesAt_length ..) fun i hi => ?_
  rw [State.bytesAt_length] at hi
  rw [State.bytesAt_getD _ _ _ _ _ hi, h.bytes, if_pos ⟨rfl, by omega, by omega⟩, Nat.add_sub_cancel_left]

theorem sameOutside {s t : State} {d : Place} {v : Bytes} (h : Wrote s t d v) : SameOutside s t d v.length := by
  intro m x hx
  rw [h.bytes, if_neg]
  rintro ⟨hm, hlo, hhi⟩
  have := hx hm
  omega

/-- The whole state after the write, the contents of the memories apart. -/
theorem rest {s t : State} {d : Place} {v : Bytes} (h : Wrote s t d v) :
    t = { s with
      lsb := t.lsb
      localMem := t.localMem
      cbWrittenLast := if d.mt = .localMem then s.cbWrittenLast + BitVec.ofNat 32 v.length else s.cbWrittenLast } := by
  rw [← h.count]
  exact h.moved.rest

/-- Everything a write of `n` bytes leaves. -/
theorem leaves {s t : State} {d : Place} {v : Bytes} {n : Nat} (h : Wrote s t d v) (hn : v.length = n) :
    t.bytesAt d.mt d.addr n = v ∧ SameOutside s t d n ∧
      t = { s with
        lsb := t.lsb
        localMem := t.localMem
        cbWrittenLast := if d.mt = .localMem then s.cbWrittenLast + BitVec.ofNat 32 n else s.cbWrittenLast } := by
  subst hn
  exact ⟨h.bytesAt, h.sameOutside, h.rest⟩

/-- A write just below another one leaves what one write of both leaves. -/
theorem below {s t u : State} {mt : MemType} {a : Nat} {v w : Bytes} (h : Wrote s t ⟨a + v.length, mt⟩ w)
    (h' : Wrote t u ⟨a, mt⟩ v) : Wrote s u ⟨a, mt⟩ (v ++ w) where
  moved := h.moved.trans h'.moved
  count := by
    rw [h'.count, h.count, List.length_append, BitVec.ofNat_add]
    split
    · rw [BitVec.add_assoc, BitVec.add_comm (BitVec.ofNat 32 w.length)]
    · rfl
  bytes m x := by
    simp only [h'.bytes, h.bytes, List.length_append]
    by_cases hlow : m = mt ∧ a ≤ x ∧ x < a + v.length
    · obtain ⟨hm, ha, hx⟩ := hlow
      rw [if_pos ⟨hm, ha, hx⟩, if_pos ⟨hm, ha, by omega⟩, List.getD_append _ _ _ _ (by omega)]
    · rw [if_neg hlow]
      by_cases hhigh : m = mt ∧ a + v.length ≤ x ∧ x < a + v.length + w.length
      · obtain ⟨hm, ha, hx⟩ := hhigh
        rw [if_pos ⟨hm, ha, hx⟩, if_pos ⟨hm, by omega, by omega⟩, List.getD_append_right _ _ _ _ (by omega), Nat.sub_sub]
      · rw [if_neg hhigh, if_neg]
        rintro ⟨hm, ha, hx⟩
        rcases Nat.lt_or_ge x (a + v.length) with hlt | hge
        · exact hlow ⟨hm, ha, hlt⟩
        · exact hhigh ⟨hm, hge, by omega⟩

end Wrote

/-! ## The downward write (R64) -/

/-- The context after `n` bytes written downward. -/
def Xfer.lowered (x : Xfer) (n : Nat) : Xfer := { x with dstAddr := x.dstAddr - n, wrLeft := x.spend n }

theorem Xfer.lowered_zero (x : Xfer) : x.lowered 0 = x := by
  simp [Xfer.lowered, Xfer.spend]

theorem Xfer.lowered_lowered (x : Xfer) (n k : Nat) : (x.lowered n).lowered k = x.lowered (n + k) := by
  simp [Xfer.lowered, Xfer.spend, Nat.sub_sub, Function.comp_def]

theorem xferWriteDown_cons (x : Xfer) (b : Byte) (v : Bytes) (s : State) :
    xferWriteDown x (b :: v) s =
      match memWrite s x.dstMt (x.dstAddr - 1) [b] with
      | .ok t => xferWriteDown (x.lowered 1) v t
      | .error k => .raise k s :=
  rfl

theorem xferWriteDown_append (x : Xfer) (u v : Bytes) (s : State) :
    xferWriteDown x (u ++ v) s = (xferWriteDown x u s).andThen fun y t => xferWriteDown y v t := by
  induction u generalizing x s with
  | nil => rfl
  | cons b u ih =>
    rw [List.cons_append, xferWriteDown_cons, xferWriteDown_cons]
    cases memWrite s x.dstMt (x.dstAddr - 1) [b] with
    | ok t => exact ih _ t
    | error k => rfl

/-- A served downward write stores its bytes in reverse order below the cursor. -/
theorem xferWriteDown_wrote {x : Xfer} {v : Bytes} {s : State} (hw : s.MemoryWf) (hle : v.length ≤ x.dstAddr)
    (h : s.serves x.dstMt (x.dstAddr - v.length) v.length = true) :
    ∃ t, xferWriteDown x v s = .ok (x.lowered v.length) t ∧
      Wrote s t ⟨x.dstAddr - v.length, x.dstMt⟩ v.reverse := by
  induction v generalizing x s with
  | nil => exact ⟨s, by rw [List.length_nil, Xfer.lowered_zero]; rfl, .nil s _⟩
  | cons b v ih =>
    rw [List.length_cons] at hle h
    have hfirst : s.serves x.dstMt (x.dstAddr - 1) [b].length = true :=
      State.serves_mono h (by omega) (by simp only [List.length_singleton]; omega)
    obtain ⟨t, ht, hst⟩ := memWrite_wrote hw (List.cons_ne_nil b []) hfirst
    have hrest : t.serves x.dstMt (x.dstAddr - 1 - v.length) v.length = true := by
      rw [hst.moved.serves]
      exact State.serves_mono h (by omega) (by omega)
    obtain ⟨u, hu, htu⟩ := ih (x := x.lowered 1) (hst.moved.wf hw) (Nat.le_sub_one_of_lt hle) hrest
    refine ⟨u, ?_, ?_⟩
    · rw [xferWriteDown_cons, ht, List.length_cons, Nat.add_comm, ← Xfer.lowered_lowered]
      exact hu
    · rw [List.reverse_cons, List.length_cons, show x.dstAddr - (v.length + 1) = x.dstAddr - 1 - v.length by omega]
      refine Wrote.below ?_ htu
      rw [List.length_reverse, Nat.sub_add_cancel (by omega)]
      exact hst

/-- Where the `i`-th byte down is the first that is not served, the bytes before it are written and its access raises. -/
theorem xferWriteDown_raises {x : Xfer} {v : Bytes} {s : State} {i : Nat} (hw : s.MemoryWf) (hi : i < v.length)
    (hle : v.length ≤ x.dstAddr) (hbefore : s.serves x.dstMt (x.dstAddr - i) i = true)
    (hat : s.serves x.dstMt (x.dstAddr - i - 1) 1 = false) :
    ∃ t, xferWriteDown x v s = .raise (refusalKind x.dstMt (x.dstAddr - i - 1) 1) t ∧
      Wrote s t ⟨x.dstAddr - i, x.dstMt⟩ (v.take i).reverse := by
  have hlen : (v.take i).length = i := List.length_take_of_le hi.le
  obtain ⟨t, ht, hst⟩ := xferWriteDown_wrote (x := x) (v := v.take i) hw (by omega) (by rw [hlen]; exact hbefore)
  rw [hlen] at ht hst
  have hrefused : memWrite t x.dstMt (x.dstAddr - i - 1) [v[i]] = .error (refusalKind x.dstMt (x.dstAddr - i - 1) 1) :=
    memWrite_of_not_serves (List.cons_ne_nil _ _) ((hst.moved.serves ..).trans hat)
  refine ⟨t, ?_, hst⟩
  calc xferWriteDown x v s
      = xferWriteDown x (v.take i ++ v[i] :: v.drop (i + 1)) s := by rw [← List.drop_eq_getElem_cons hi, List.take_append_drop]
    _ = xferWriteDown (x.lowered i) (v[i] :: v.drop (i + 1)) t := by rw [xferWriteDown_append, ht]; rfl
    _ = .raise (refusalKind x.dstMt (x.dstAddr - i - 1) 1) t := by
      rw [xferWriteDown_cons]
      simp only [Xfer.lowered, hrefused]

theorem xferWrite_over_budget {x : Xfer} {v : Bytes} (s : State) (hf : x.fits v.length = false) :
    xferWrite x v s = .raise .outOfRange s := by
  simp [xferWrite, hf]

theorem xferWrite_reverse {x : Xfer} {v : Bytes} (s : State) (hr : x.reverse = true) (hf : x.fits v.length = true) :
    xferWrite x v s = xferWriteDown x v s := by
  simp [xferWrite, hf, hr]

/-! ## The statements -/

/-- Settles O9, by the three outcomes of a downward write: over the budget, served, and refused at the `i`-th byte. -/
theorem reverseWriteReversesBytes : Obligations.ReverseWriteReversesBytes := by
  intro s x v hr _
  refine ⟨xferWrite_over_budget s, ?served, ?refused⟩
  case served =>
    intro hw hf hle h
    obtain ⟨t, ht, hst⟩ := xferWriteDown_wrote hw hle h
    obtain ⟨hbytes, houtside, hrest⟩ := hst.leaves List.length_reverse
    exact ⟨t, x.lowered v.length, (xferWrite_reverse s hr hf).trans ht, hbytes, houtside, rfl, rfl, hrest⟩
  case refused =>
    intro i hi hw hf hle hbefore hat
    obtain ⟨t, ht, hst⟩ := xferWriteDown_raises hw hi hle hbefore hat
    obtain ⟨hbytes, houtside, hrest⟩ := hst.leaves (List.length_reverse.trans (List.length_take_of_le hi.le))
    exact ⟨_, t, (xferWrite_reverse s hr hf).trans ht, memRead_of_not_serves Nat.one_ne_zero hat, hbytes, houtside, hrest⟩

/-- Settles O8: what a served write leaves is read back by a served read. -/
theorem writeIsReadBack : Obligations.WriteIsReadBack := by
  intro s mt a v hw hv h
  obtain ⟨t, ht, hst⟩ := memWrite_wrote hw hv h
  have hserved : t.serves mt a v.length = true := (hst.moved.serves ..).trans h
  have hread := memRead_of_serves (List.length_pos_iff.2 hv).ne' hserved
  obtain ⟨hbytes, houtside, hrest⟩ := hst.leaves rfl
  exact ⟨t, ht, hst.moved.wf hw, hread.trans (congrArg _ hbytes), houtside, hrest⟩

/-- Settles O6: inside the bounds the LSB is served, outside them it is refused. -/
theorem lsbAccessIsBounded : Obligations.LsbAccessIsBounded := by
  rintro s a n v hn rfl
  have hn' : v.length ≠ 0 := Nat.one_le_iff_ne_zero.1 hn
  have hv : v ≠ [] := List.ne_nil_of_length_pos hn
  split
  · rename_i hin
    have hserved := (State.serves_sb_iff (s := s) hn').2 hin
    exact ⟨memRead_of_serves hn' hserved, memWrite_of_serves hv hserved⟩
  · rename_i hout
    have hnot : s.serves .sb a v.length = false := Bool.eq_false_iff.2 fun h => hout ((State.serves_sb_iff hn').1 h)
    exact ⟨memRead_of_not_serves hn' hnot, memWrite_of_not_serves hv hnot⟩

/-- Settles O7: a read and a write that are not served raise one kind, `refusalKind`. -/
theorem unservedAccessesFail : Obligations.UnservedAccessesFail := by
  intro s mt a v hv h
  refine ⟨refusalKind mt a v.length, memRead_of_not_serves (List.length_pos_iff.2 hv).ne' h,
    memWrite_of_not_serves hv h, ?_⟩
  cases mt <;> rfl

end Sys2Proof.Machine
end

section
/-! PROOFS. The decoder said once (30_encoding.md R100 to R117): which command a descriptor decodes to, and which descriptors
are rejected, under every encoding. -/

namespace Sys2Proof

open Machine

/-! ## Fields and words -/

theorem field_lt (w lo n : Nat) : field w lo n < 2 ^ n := Nat.mod_lt _ (Nat.two_pow_pos n)

/-- A field of a field is a field of the word. -/
theorem field_field {a m n : Nat} (h : a + m ≤ n) (w lo : Nat) : field (field w lo n) a m = field w (lo + a) m := by
  apply Nat.eq_of_testBit_eq
  intro i
  simp only [testBit_field, ← Nat.add_assoc]
  by_cases hi : i < m
  · simp [hi, show a + i < n by omega]
  · simp [hi]

/-- Words that agree on a field agree on every field inside it. -/
theorem field_eq_of_field_eq {w v lo n a m : Nat} (h : field w lo n = field v lo n) (hm : a + m ≤ n) :
    field w (lo + a) m = field v (lo + a) m := by
  rw [← field_field hm, h, field_field hm]

theorem le_lt_pow_length (b : Bytes) : le b < 256 ^ b.length := by
  induction b with
  | nil => exact Nat.one_pos
  | cons x t ih =>
    have hx := x.isLt
    rw [le, List.length_cons, Nat.pow_succ]
    omega

theorem descWord_lt (d : Bytes) (k : Nat) : descWord d k < 2 ^ 32 :=
  calc descWord d k < 256 ^ (slice d (4 * k) 4).length := le_lt_pow_length _
    _ ≤ 256 ^ 4 := Nat.pow_le_pow_right (by decide) (List.length_take_le 4 _)

theorem decodeAddr_lt (d : Bytes) (k : Nat) : decodeAddr d k < 2 ^ 48 := by
  have hhi := field_lt (descWord d (k + 1)) 0 16
  have hlo := descWord_lt d k
  rw [decodeAddr]
  omega

theorem decodeShaBits_lt (d : Bytes) : decodeShaBits d < 2 ^ 64 := by
  have hhi := descWord_lt d 5
  have hlo := descWord_lt d 4
  rw [decodeShaBits]
  omega

theorem decodeSource_wellFormed (c : Encoding) (d : Bytes) : (decodeSource c d).WellFormed :=
  ⟨descWord_lt d 1, decodeAddr_lt d 2, field_lt _ _ 7⟩

theorem decodePlace_wellFormed (c : Encoding) (d : Bytes) (k : Nat) : (decodePlace c d k).WellFormed := decodeAddr_lt d k

/-! ## The command of a descriptor -/

/-- The command with every operand as the descriptor `d` gives it (R100 to R107, R113). -/
def Instr.readFrom (c : Encoding) (d : Bytes) : Instr → Instr
  | .ptCopy .. => .ptCopy (decodeFlags c d) (decodeSource c d) (decodePlace c d 4)
  | .ptSwap256 .. => .ptSwap256 (decodeFlags c d) (decodeSource c d) (decodePlace c d 4)
  | .sha256 .. => .sha256 (decodeFlags c d) (decodeSource c d) (decodeShaBits d)
  | .sha384 .. => .sha384 (decodeFlags c d) (decodeSource c d) (decodeShaBits d)
  | .aes128EcbDec .. => .aes128EcbDec (decodeFlags c d) (decodeSource c d) (decodePlace c d 4) (decodePlace c d 6)
  | .aes128EcbEnc .. => .aes128EcbEnc (decodeFlags c d) (decodeSource c d) (decodePlace c d 4) (decodePlace c d 6)
  | .aes128CbcDec .. => .aes128CbcDec (decodeFlags c d) (decodeSource c d) (decodePlace c d 4) (decodePlace c d 6)
  | .aes128CbcEnc .. => .aes128CbcEnc (decodeFlags c d) (decodeSource c d) (decodePlace c d 4) (decodePlace c d 6)
  | .aes256EcbDec .. => .aes256EcbDec (decodeFlags c d) (decodeSource c d) (decodePlace c d 4) (decodePlace c d 6)
  | .aes256EcbEnc .. => .aes256EcbEnc (decodeFlags c d) (decodeSource c d) (decodePlace c d 4) (decodePlace c d 6)
  | .aes256CbcDec .. => .aes256CbcDec (decodeFlags c d) (decodeSource c d) (decodePlace c d 4) (decodePlace c d 6)
  | .aes256CbcEnc .. => .aes256CbcEnc (decodeFlags c d) (decodeSource c d) (decodePlace c d 4) (decodePlace c d 6)
  | .rsaModexp2048 .. => .rsaModexp2048 (decodeFlags c d) (decodeSource c d) (decodePlace c d 4) (decodePlace c d 6)
  | .rsaModexp4096 .. => .rsaModexp4096 (decodeFlags c d) (decodeSource c d) (decodePlace c d 4) (decodePlace c d 6)
  | .eccMulf .. =>
    .eccMulf (decodeFlags c d) (decodeSource c d) (decodePlace c d 4) (getField (dw0Function c d) c.ecc.bits)
  | .eccAddf .. =>
    .eccAddf (decodeFlags c d) (decodeSource c d) (decodePlace c d 4) (getField (dw0Function c d) c.ecc.bits)
  | .eccInvf .. =>
    .eccInvf (decodeFlags c d) (decodeSource c d) (decodePlace c d 4) (getField (dw0Function c d) c.ecc.bits)
  | .eccMulc .. =>
    .eccMulc (decodeFlags c d) (decodeSource c d) (decodePlace c d 4) (getField (dw0Function c d) c.ecc.bits)
  | .eccMuladdc .. =>
    .eccMuladdc (decodeFlags c d) (decodeSource c d) (decodePlace c d 4) (getField (dw0Function c d) c.ecc.bits)
  | .zlibInflate .. => .zlibInflate (decodeFlags c d) (decodeSource c d) (decodePlace c d 4)

@[simp] theorem Instr.readFrom_readFrom (c : Encoding) (d : Bytes) (i : Instr) :
    (i.readFrom c d).readFrom c d = i.readFrom c d := by cases i <;> rfl

@[simp] theorem Instr.engineCode_readFrom (c b : Encoding) (d : Bytes) (i : Instr) :
    (i.readFrom c d).engineCode b = i.engineCode b := by cases i <;> rfl

/-- What a descriptor gives fits the fields it is read from. -/
theorem Instr.readFrom_wellFormed {c : Encoding} (hc : c.WF) (d : Bytes) (i : Instr) : (i.readFrom c d).WellFormed := by
  have hsrc := decodeSource_wellFormed c d
  have hplace := decodePlace_wellFormed c d
  have hbits : getField (dw0Function c d) c.ecc.bits < 2 ^ 12 := hc.eccBits ▸ field_lt _ _ _
  cases i with
  | ptCopy | ptSwap256 | zlibInflate => exact decide_eq_true ⟨hsrc, hplace 4⟩
  | sha256 | sha384 => exact decide_eq_true ⟨hsrc, decodeShaBits_lt d⟩
  | aes128EcbDec | aes128EcbEnc | aes128CbcDec | aes128CbcEnc | aes256EcbDec | aes256EcbEnc | aes256CbcDec | aes256CbcEnc
  | rsaModexp2048 | rsaModexp4096 => exact decide_eq_true ⟨hsrc, hplace 4, hplace 6⟩
  | eccMulf | eccAddf | eccInvf | eccMulc | eccMuladdc => exact decide_eq_true ⟨hsrc, hplace 4, hbits⟩

/-- The commands that an engine code offers are those of the engine, with the descriptor's operands. -/
theorem mem_engineCommands {c : Encoding} (hc : c.WF) {d : Bytes} {e : Nat} {i : Instr} :
    i ∈ engineCommands c d e ↔ i.engineCode c = e ∧ i.readFrom c d = i := by
  constructor
  · have hall : ∀ j ∈ engineCommands c d e, j.engineCode c = e ∧ j.readFrom c d = j := by
      unfold engineCommands
      split_ifs with haes hsha hrsa hpt hzlib hecc <;>
        simp only [List.forall_mem_cons, List.not_mem_nil, false_implies, implies_true, and_self, Instr.engineCode,
          Instr.readFrom, *]
    exact hall i
  · rintro ⟨rfl, h⟩
    have hcodes := List.nodup_reverse.2 hc.engines.2
    simp at hcodes
    rw [← h]
    cases i <;> simp [engineCommands, Instr.engineCode, Instr.readFrom, hcodes]

/-- Two commands ask different values of one field. -/
def Instr.Clash (c : Encoding) (i j : Instr) : Prop :=
  ∃ p ∈ i.functionFields c, ∃ q ∈ j.functionFields c, p.1 = q.1 ∧ p.2 ≠ q.2

theorem Instr.selectedBy_iff {c : Encoding} {f : Nat} {i : Instr} :
    i.selectedBy c f = true ↔ ∀ p ∈ i.functionFields c, getField f p.1 = p.2 := by
  simp only [selectedBy, List.all_eq_true, beq_iff_eq]

theorem Instr.Clash.not_both_selected {c : Encoding} {i j : Instr} (h : i.Clash c j) (f : Nat) :
    ¬ (i.selectedBy c f = true ∧ j.selectedBy c f = true) := by
  rintro ⟨hi, hj⟩
  obtain ⟨p, hp, q, hq, hfield, hvalue⟩ := h
  exact hvalue (by rw [← selectedBy_iff.1 hi p hp, hfield, selectedBy_iff.1 hj q hq])

/-- The commands of one engine differ in a code of their function fields (R109 to R113). -/
theorem engineCommands_clash {c : Encoding} (hc : c.WF) (d : Bytes) (e : Nat) :
    (engineCommands c d e).Pairwise (Instr.Clash c) := by
  have haesDir := hc.aesDir.2
  have haesMode := hc.aesMode.2
  have haesType := hc.aesType.2
  have hshaType := hc.shaType.2
  have hptSwap := hc.ptSwap.2
  have heccOp := hc.eccOp.2
  simp at haesDir haesMode haesType hshaType hptSwap heccOp
  unfold engineCommands
  split_ifs <;>
    simp only [List.pairwise_cons, List.forall_mem_cons, List.not_mem_nil, false_implies, implies_true, List.Pairwise.nil,
      Instr.Clash, Instr.functionFields, aesFunction, List.exists_mem_cons_iff, exists_false, Nat.reduceEqDiff, ne_eq,
      not_true, not_false_eq_true, true_and, false_and, and_true, and_false, true_or, or_true, or_false, false_or, haesDir,
      haesMode, haesType, hshaType, hptSwap, heccOp]

/-- A search among elements of which at most one passes the test finds the one that does. -/
theorem find?_eq_some_iff_of_pairwise {α : Type} {p : α → Bool} {l : List α} {a : α}
    (h : l.Pairwise fun x y => ¬ (p x = true ∧ p y = true)) : l.find? p = some a ↔ a ∈ l ∧ p a = true := by
  induction l with
  | nil => simp
  | cons x t ih =>
    obtain ⟨hx, ht⟩ := List.pairwise_cons.1 h
    rw [List.find?_cons, List.mem_cons]
    cases hpx : p x with
    | false =>
      rw [ih ht]
      refine ⟨fun ⟨hm, hp⟩ => ⟨.inr hm, hp⟩, ?_⟩
      rintro ⟨rfl | hm, hp⟩
      · exact absurd (hpx.symm.trans hp) Bool.false_ne_true
      · exact ⟨hm, hp⟩
    | true =>
      refine ⟨fun he => ?_, ?_⟩
      · obtain rfl := Option.some.inj he
        exact ⟨.inl rfl, hpx⟩
      · rintro ⟨rfl | hm, hp⟩
        · rfl
        · exact absurd ⟨hpx, hp⟩ (hx a hm)

theorem decodeWith_eq_ok_iff_find? {c : Encoding} {d : Bytes} {i : Instr} :
    decodeWith c d = .ok i ↔
      d.length = 32 ∧ (engineCommands c d (dw0Engine c d)).find? (Instr.selectedBy c (dw0Function c d)) = some i := by
  unfold decodeWith
  split
  · rename_i hlen
    rw [and_iff_right hlen]
    cases hl : engineCommands c d (dw0Engine c d) with
    | nil => simp
    | cons j t => cases hf : (j :: t).find? (Instr.selectedBy c (dw0Function c d)) <;> simp [hf]
  · rename_i hlen
    simp [hlen]

theorem decodeWith_eq_error_iff_find? {c : Encoding} {d : Bytes} {r : Reject} (hlen : d.length = 32) :
    decodeWith c d = .error r ↔
      engineCommands c d (dw0Engine c d) = [] ∧ r = .unknownEngine (dw0Engine c d) ∨
        engineCommands c d (dw0Engine c d) ≠ [] ∧
          (engineCommands c d (dw0Engine c d)).find? (Instr.selectedBy c (dw0Function c d)) = none ∧
            r = .unsupportedFunction (dw0Engine c d) (dw0Function c d) := by
  unfold decodeWith
  rw [if_pos hlen]
  cases hl : engineCommands c d (dw0Engine c d) with
  | nil => simp [eq_comm]
  | cons j t => cases hf : (j :: t).find? (Instr.selectedBy c (dw0Function c d)) <;> simp [hf, eq_comm]

/-- A descriptor decodes to a command exactly when its engine code and its function field are the command's; the operands are
then those that the descriptor gives (R115). -/
theorem decodeWith_eq_ok_iff {c : Encoding} (hc : c.WF) {d : Bytes} {i : Instr} :
    decodeWith c d = .ok i ↔
      d.length = 32 ∧ i.engineCode c = dw0Engine c d ∧ i.readFrom c d = i ∧ i.selectedBy c (dw0Function c d) = true := by
  rw [decodeWith_eq_ok_iff_find?, find?_eq_some_iff_of_pairwise, mem_engineCommands hc, and_assoc]
  exact (engineCommands_clash hc d _).imp fun h => h.not_both_selected _

/-- An engine code offers no command exactly when it is none of the six engines' (R108, R143). -/
theorem engineCommands_eq_nil_iff {c : Encoding} {d : Bytes} {e : Nat} :
    engineCommands c d e = [] ↔
      e ∉ [c.engines.aes, c.engines.sha, c.engines.rsa, c.engines.passthrough, c.engines.zlib, c.engines.ecc] := by
  unfold engineCommands
  split_ifs <;> simp [*]

/-- Every function field selects the ZLIB command (R114). -/
theorem engineCommands_zlib {c : Encoding} {d : Bytes} {e f : Nat} (hne : engineCommands c d e ≠ [])
    (hnone : (engineCommands c d e).find? (Instr.selectedBy c f) = none) :
    e ∈ [c.engines.aes, c.engines.sha, c.engines.rsa, c.engines.passthrough, c.engines.ecc] := by
  revert hne hnone
  unfold engineCommands
  split_ifs <;> simp [Instr.selectedBy, Instr.functionFields, *]

/-- What a rejected descriptor is rejected with (R117, R143). -/
theorem reject_of_decodeWith_eq_error {c : Encoding} {d : Bytes} {r : Reject} (hlen : d.length = 32)
    (h : decodeWith c d = .error r) :
    (r = .unknownEngine (dw0Engine c d) ∧ rejectKind r = .decodeError ∧
        dw0Engine c d ∉ [c.engines.aes, c.engines.sha, c.engines.rsa, c.engines.passthrough, c.engines.zlib, c.engines.ecc]) ∨
      (r = .unsupportedFunction (dw0Engine c d) (dw0Function c d) ∧ rejectKind r = .notImplemented ∧
        dw0Engine c d ∈ [c.engines.aes, c.engines.sha, c.engines.rsa, c.engines.passthrough, c.engines.ecc]) := by
  rcases (decodeWith_eq_error_iff_find? hlen).1 h with ⟨hnil, rfl⟩ | ⟨hne, hnone, rfl⟩
  · exact .inl ⟨rfl, rfl, engineCommands_eq_nil_iff.1 hnil⟩
  · exact .inr ⟨rfl, rfl, engineCommands_zlib hne hnone⟩

/-- What a rejected descriptor is rejected with, from its engine code and its function field alone. -/
theorem reject_eq {c : Encoding} {d : Bytes} {r : Reject} (hlen : d.length = 32) (h : decodeWith c d = .error r) :
    r =
      if dw0Engine c d ∈ [c.engines.aes, c.engines.sha, c.engines.rsa, c.engines.passthrough, c.engines.zlib, c.engines.ecc] then
        .unsupportedFunction (dw0Engine c d) (dw0Function c d)
      else .unknownEngine (dw0Engine c d) := by
  rcases (decodeWith_eq_error_iff_find? hlen).1 h with ⟨hnil, hr⟩ | ⟨hne, -, hr⟩
  · rw [if_neg (engineCommands_eq_nil_iff.1 hnil), hr]
  · rw [if_pos (by simpa only [ne_eq, engineCommands_eq_nil_iff, not_not] using hne), hr]

/-- Settles O3: in the default encoding, the ten of the sixteen engine codes that are no engine's are those listed. -/
theorem illegalDescriptorsAreClassified : Obligations.IllegalDescriptorsAreClassified := by
  refine ⟨fun d r hlen h => ?_, fun c d r => reject_of_decodeWith_eq_error⟩
  refine (reject_of_decodeWith_eq_error hlen h).imp_left fun ⟨hr, hkind, hcode⟩ => ⟨hr, hkind, ?_⟩
  have hcodes : ∀ n < 16, n ∉ [0, 3, 4, 5, 6, 7] → n ∈ [1, 2, 8, 9, 10, 11, 12, 13, 14, 15] := by decide
  exact hcodes _ (field_lt (descWord d 0) 20 4) hcode

end Sys2Proof
end

section
/-! PROOFS. The opcode table and the decoder agree (30_encoding.md R115). -/

namespace Sys2Proof

open Machine

/-! ## Masks of fields -/

/-- The word with ones in the listed fields, all other bits 0. -/
def fieldMask (l : List (BitField × Nat)) : Nat := pack (l.map fun p => (p.1, 2 ^ p.1.width - 1))

theorem and_shiftLeft_ones (w : Nat) (b : BitField) : w &&& (2 ^ b.width - 1) <<< b.lo = getField w b <<< b.lo := by
  apply Nat.eq_of_testBit_eq
  intro i
  rw [Nat.testBit_and, Nat.testBit_shiftLeft, Nat.testBit_shiftLeft, getField, testBit_field, Nat.testBit_two_pow_sub_one]
  by_cases hi : b.lo ≤ i
  · simp [hi, Nat.add_sub_cancel' hi, Bool.and_comm]
  · simp [hi]

/-- A mask of fields keeps the values of those fields. -/
theorem and_fieldMask (w : Nat) (l : List (BitField × Nat)) :
    w &&& fieldMask l = pack (l.map fun p => (p.1, getField w p.1)) := by
  induction l with
  | nil => exact Nat.and_zero w
  | cons p t ih =>
    rw [fieldMask] at ih ⊢
    rw [List.map_cons, List.map_cons, pack, pack, Nat.and_or_distrib_left, and_shiftLeft_ones, ih]

/-- A word matches under the mask of some fields exactly when each holds its value. -/
theorem and_fieldMask_eq_pack_iff {w : Nat} {l : List (BitField × Nat)} (hv : ∀ p ∈ l, p.2 < 2 ^ p.1.width)
    (hd : (l.map Prod.fst).Pairwise apart) : w &&& fieldMask l = pack l ↔ ∀ p ∈ l, getField w p.1 = p.2 := by
  rw [and_fieldMask]
  constructor
  · intro h p hp
    have hlt : ∀ q ∈ l.map fun p => (p.1, getField w p.1), q.2 < 2 ^ q.1.width := by
      rw [List.forall_mem_map]
      exact fun p _ => field_lt w p.1.lo p.1.width
    have hread := getField_pack hlt (by simpa [Function.comp_def] using hd) (List.mem_map_of_mem hp)
    rw [← getField_pack hv hd hp, ← h, hread]
  · intro h
    have hmap : l.map (fun p => (p.1, getField w p.1)) = l.map id := List.map_congr_left fun p hp => Prod.ext rfl (h p hp)
    rw [hmap, List.map_id]

/-! ## The rows of the opcode table -/

/-- The sub-fields of the function field that choose the command: all but the bit count of an ECC command (R109 to R113). -/
def Instr.choosing (i : Instr) : List (BitField × Nat) :=
  (i.functionFields Encoding.default).filter fun p => p.1 ≠ Encoding.default.ecc.bits

/-- The fields of `dw0` that a row of the table fixes: the engine and the choosing part of the function field, bit 5 up. -/
def Instr.rowFields (i : Instr) : List (BitField × Nat) :=
  (⟨20, 4⟩, i.engineCode Encoding.default) :: i.choosing.map fun p => (⟨5 + p.1.lo, p.1.width⟩, p.2)

theorem Instr.dw0Mask_eq (i : Instr) : i.dw0Mask = fieldMask i.rowFields := by
  cases i <;> simp [dw0Mask, fieldMask, pack, rowFields, choosing, functionFields, aesFunction, engineCode, Encoding.default]

theorem Instr.dw0Match_eq (i : Instr) : i.dw0Match = pack i.rowFields := by
  cases i <;> simp [dw0Match, pack, rowFields, choosing, functionFields, aesFunction, engineCode, Encoding.default]

theorem Instr.rowFields_fit (i : Instr) : ∀ p ∈ i.rowFields, p.2 < 2 ^ p.1.width := by
  cases i <;> simp [rowFields, choosing, functionFields, aesFunction, engineCode, Encoding.default]

theorem Instr.rowFields_apart (i : Instr) : (i.rowFields.map Prod.fst).Pairwise apart := by
  cases i <;> simp [apart, rowFields, choosing, functionFields, aesFunction, engineCode, Encoding.default]

theorem Instr.choosing_within (i : Instr) : ∀ p ∈ i.choosing, p.1.lo + p.1.width ≤ 15 := by
  cases i <;> simp [choosing, functionFields, aesFunction, Encoding.default]

@[simp] theorem Instr.dw0Match_readFrom (c : Encoding) (d : Bytes) (i : Instr) : (i.readFrom c d).dw0Match = i.dw0Match := by
  cases i <;> rfl

theorem Instr.selectedBy_readFrom_iff (d : Bytes) (i : Instr) :
    (i.readFrom Encoding.default d).selectedBy Encoding.default (dw0Function Encoding.default d) = true ↔
      ∀ p ∈ i.choosing, getField (dw0Function Encoding.default d) p.1 = p.2 := by
  rw [selectedBy_iff]
  cases i <;> simp [choosing, readFrom, functionFields, aesFunction, Encoding.default]

/-- A descriptor is in a command's row of the table exactly when its engine code and its function field are the command's. -/
theorem Instr.and_dw0Mask_eq_dw0Match_iff (d : Bytes) (i : Instr) :
    descWord d 0 &&& i.dw0Mask = i.dw0Match ↔
      i.engineCode Encoding.default = dw0Engine Encoding.default d ∧
        (i.readFrom Encoding.default d).selectedBy Encoding.default (dw0Function Encoding.default d) = true := by
  have hsub : ∀ p ∈ i.choosing,
      getField (dw0Function Encoding.default d) p.1 = getField (descWord d 0) ⟨5 + p.1.lo, p.1.width⟩ := fun p hp =>
    field_field (i.choosing_within p hp) (descWord d 0) 5
  rw [dw0Mask_eq, dw0Match_eq, and_fieldMask_eq_pack_iff i.rowFields_fit i.rowFields_apart, rowFields, List.forall_mem_cons,
    List.forall_mem_map, selectedBy_readFrom_iff]
  exact and_congr eq_comm (forall₂_congr fun p hp => by rw [hsub p hp])

/-- Settles O2: being in a command's row of the table is what `decodeWith_eq_ok_iff` asks of the command. -/
theorem decodeFollowsOpcodeTable : Obligations.DecodeFollowsOpcodeTable := by
  have hc := Laws.default_encoding_wf
  constructor
  · intro d i h
    obtain ⟨hlen, hengine, hread, hsel⟩ := (decodeWith_eq_ok_iff hc).1 h
    exact ⟨hlen, hread ▸ i.readFrom_wellFormed hc d, (i.and_dw0Mask_eq_dw0Match_iff d).2 ⟨hengine, hread.symm ▸ hsel⟩⟩
  · intro d j hlen hrow
    obtain ⟨hengine, hsel⟩ := (j.and_dw0Mask_eq_dw0Match_iff d).1 hrow
    have hdecode : decode d = .ok (j.readFrom Encoding.default d) := (decodeWith_eq_ok_iff hc).2
      ⟨hlen, (j.engineCode_readFrom ..).trans hengine, j.readFrom_readFrom .., hsel⟩
    exact ⟨_, hdecode, j.dw0Match_readFrom ..⟩

end Sys2Proof
end

section
/-! PROOFS. The decoder reads back what the encoder writes (30_encoding.md R100 to R114, R119). -/

namespace Sys2Proof

open Machine Laws

/-! ## The function field (R109 to R114) -/

theorem Instr.functionFields_fieldsWf {c : Encoding} (hc : c.WF) (i : Instr) :
    fieldsWf 15 ((i.functionFields c).map Prod.fst) := by
  cases i with
  | ptCopy | ptSwap256 => exact hc.pt
  | sha256 | sha384 => exact hc.sha
  | aes128EcbDec | aes128EcbEnc | aes128CbcDec | aes128CbcEnc | aes256EcbDec | aes256EcbEnc | aes256CbcDec | aes256CbcEnc =>
    exact hc.aes
  | rsaModexp2048 | rsaModexp4096 => exact hc.rsa
  | eccMulf | eccAddf | eccInvf | eccMulc | eccMuladdc =>
    obtain ⟨hin, hapart⟩ := hc.ecc
    exact ⟨fun b hb => hin b ((List.Perm.swap ..).subset hb), hapart.perm (List.Perm.swap ..) Or.symm⟩
  | zlibInflate => exact ⟨List.forall_mem_nil _, List.Pairwise.nil⟩

theorem Instr.functionFields_fit {c : Encoding} (hc : c.WF) {i : Instr} (hi : i.WellFormed) :
    ∀ p ∈ i.functionFields c, p.2 < 2 ^ p.1.width := by
  have hpt := hc.ptSwap.1
  have hbitwise := hc.ptBitwise.1
  have hsha := hc.shaType.1
  have hdir := hc.aesDir.1
  have hmode := hc.aesMode.1
  have htype := hc.aesType.1
  have hrsaMode := hc.rsaMode.1
  have hrsaSize := hc.rsaSize.1
  have hop := hc.eccOp.1
  have hbits := hc.eccBits
  simp only [List.forall_mem_cons] at hpt hbitwise hsha hdir hmode htype hrsaMode hrsaSize hop
  cases i <;> simp_all [Instr.functionFields, aesFunction, WellFormed, wellFormed]

/-- The function field that is packed holds every value (R109 to R113). -/
theorem Instr.getField_functionFields {c : Encoding} (hc : c.WF) {i : Instr} (hi : i.WellFormed) {p : BitField × Nat}
    (hp : p ∈ i.functionFields c) : getField (pack (i.functionFields c)) p.1 = p.2 :=
  getField_pack (i.functionFields_fit hc hi) (i.functionFields_fieldsWf hc).2 hp

/-! ## The word `dw0` (R101) -/

/-- The fields of `dw0` with their values. -/
def Instr.dw0Fields (c : Encoding) (i : Instr) : List (BitField × Nat) :=
  [(⟨c.dw0.init, 1⟩, i.flags.init.toNat), (⟨c.dw0.eom, 1⟩, i.flags.eom.toNat),
    (⟨c.dw0.function, 15⟩, pack (i.functionFields c)), (⟨c.dw0.engine, 4⟩, i.engineCode c)]

theorem Instr.dw0_eq (c : Encoding) (i : Instr) : i.dw0 c = pack (i.dw0Fields c) := rfl

theorem Instr.engineCode_lt {c : Encoding} (hc : c.WF) (i : Instr) : i.engineCode c < 2 ^ 4 := by
  refine hc.engines.1 _ ?_
  cases i <;> simp [engineCode]

theorem Instr.dw0Fields_fit {c : Encoding} (hc : c.WF) {i : Instr} (hi : i.WellFormed) :
    ∀ p ∈ i.dw0Fields c, p.2 < 2 ^ p.1.width := by
  have hfunction := pack_lt (i.functionFields_fit hc hi) (i.functionFields_fieldsWf hc).1
  simp only [dw0Fields, List.forall_mem_cons]
  exact ⟨Bool.toNat_lt _, Bool.toNat_lt _, hfunction, i.engineCode_lt hc, List.forall_mem_nil _⟩

theorem Instr.dw0_lt {c : Encoding} (hc : c.WF) {i : Instr} (hi : i.WellFormed) : i.dw0 c < 2 ^ 32 :=
  pack_lt (i.dw0Fields_fit hc hi) hc.dw0.1

theorem Instr.getField_dw0 {c : Encoding} (hc : c.WF) {i : Instr} (hi : i.WellFormed) {p : BitField × Nat}
    (hp : p ∈ i.dw0Fields c) : getField (i.dw0 c) p.1 = p.2 :=
  getField_pack (i.dw0Fields_fit hc hi) hc.dw0.2 hp

theorem bitAt_of_field_eq_toNat {w k : Nat} {b : Bool} (h : field w k 1 = b.toNat) : bitAt w k = b := by
  rw [bitAt, h]
  cases b <;> rfl

/-- What the decoder reads from the `dw0` of a command. -/
theorem decode_dw0 {c : Encoding} (hc : c.WF) {i : Instr} (hi : i.WellFormed) {d : Bytes} (h : descWord d 0 = i.dw0 c) :
    decodeFlags c d = i.flags ∧ dw0Engine c d = i.engineCode c ∧ dw0Function c d = pack (i.functionFields c) := by
  have hread : ∀ p ∈ i.dw0Fields c, field (descWord d 0) p.1.lo p.1.width = p.2 := fun p hp => h ▸ i.getField_dw0 hc hi hp
  simp only [Instr.dw0Fields, List.forall_mem_cons] at hread
  obtain ⟨hinit, heom, hfunction, hengine, -⟩ := hread
  refine ⟨?_, hengine, hfunction⟩
  rw [decodeFlags, bitAt_of_field_eq_toNat hinit, bitAt_of_field_eq_toNat heom]

/-! ## The words of an encoded descriptor (R100) -/

theorem le_append (u v : Bytes) : le (u ++ v) = le u + 256 ^ u.length * le v := by
  induction u with
  | nil => simp [le]
  | cons b t ih =>
    rw [List.cons_append, le, le, ih, List.length_cons, Nat.pow_succ']
    ring

theorem descWord_append_left {u : Bytes} {k : Nat} (h : 4 * k + 4 ≤ u.length) (v : Bytes) :
    descWord (u ++ v) k = descWord u k := by
  rw [descWord, descWord, slice, slice, List.drop_append_of_le_length (by omega),
    List.take_append_of_le_length (by rw [List.length_drop]; omega)]

theorem descWord_append_right {u : Bytes} {n : Nat} (h : u.length = 4 * n) (v : Bytes) (k : Nat) :
    descWord (u ++ v) (n + k) = descWord v k := by
  rw [descWord, descWord, slice, slice, show 4 * (n + k) = u.length + 4 * k by omega, List.drop_append,
    List.drop_eq_nil_of_le (by omega), List.nil_append, Nat.add_sub_cancel_left]

theorem descWord_toLe (v : Nat) : descWord (toLe v 4) 0 = v % 2 ^ 32 := by
  simpa using descWord_zero_append v []

/-- The 8 bytes that hold an address and a packed memory-type word (R100, R103, R104). -/
def encodeAddr (a m : Nat) : Bytes := toLe (a % 2 ^ 32) 4 ++ toLe (a / 2 ^ 32) 2 ++ toLe m 2

theorem length_encodeAddr (a m : Nat) : (encodeAddr a m).length = 8 := by
  simp only [encodeAddr, List.length_append, length_toLe]

theorem descWord_encodeAddr_zero (a m : Nat) : descWord (encodeAddr a m) 0 = a % 2 ^ 32 := by
  rw [encodeAddr, List.append_assoc, descWord_zero_append]
  omega

theorem descWord_encodeAddr_one {a m : Nat} (ha : a < 2 ^ 48) (hm : m < 2 ^ 16) :
    descWord (encodeAddr a m) 1 = a / 2 ^ 32 + 2 ^ 16 * m := by
  have hlen : (toLe (a / 2 ^ 32) 2 ++ toLe m 2).length ≤ 4 := by simp [length_toLe]
  rw [encodeAddr, List.append_assoc, descWord_append_right (n := 1) (k := 0) (length_toLe _ 4), descWord, slice, Nat.mul_zero,
    List.drop_zero, List.take_of_length_le hlen, le_append, le_toLe, le_toLe, length_toLe]
  omega

/-- An address and a packed memory-type word are read back from the two words that hold them. -/
theorem decode_encodeAddr {d : Bytes} {k a m : Nat} (ha : a < 2 ^ 48) (hm : m < 2 ^ 16)
    (hlo : descWord d k = descWord (encodeAddr a m) 0) (hhi : descWord d (k + 1) = descWord (encodeAddr a m) 1) :
    decodeAddr d k = a ∧ memTypeWord d (k + 1) = m := by
  rw [decodeAddr, memTypeWord, hlo, hhi, descWord_encodeAddr_zero, descWord_encodeAddr_one ha hm, field, field]
  omega

theorem ofCode_code (t : MemType) : MemType.ofCode t.code = t := by cases t <;> rfl

theorem code_lt (t : MemType) : t.code < 2 ^ 2 := by cases t <;> decide

section Words
variable {c : Encoding} {i : Instr} {src : Source} {dst key : Bytes}

theorem descWord_encodeDesc_source {k : Nat} (hk : k < 3) :
    descWord (encodeDesc c i src dst key) (1 + k) = descWord (encodeSource c src) k := by
  rw [encodeDesc, List.append_assoc, List.append_assoc, descWord_append_right (length_toLe _ 4),
    descWord_append_left (by rw [length_encodeSource]; omega)]

theorem descWord_encodeDesc_dst (hd : dst.length = 8) {k : Nat} (hk : k < 2) :
    descWord (encodeDesc c i src dst key) (4 + k) = descWord dst k := by
  rw [encodeDesc, List.append_assoc, descWord_append_right (by rw [List.length_append, length_toLe, length_encodeSource]),
    descWord_append_left (by omega)]

theorem descWord_encodeDesc_key (hd : dst.length = 8) (k : Nat) :
    descWord (encodeDesc c i src dst key) (6 + k) = descWord key k := by
  rw [encodeDesc, descWord_append_right]
  simp only [List.length_append, length_toLe, length_encodeSource, hd]

end Words

/-! ## The operands read back -/

/-- The fields of a source's packed memory-type word (R104). -/
def Source.memFields (c : Encoding) (x : Source) : List (BitField × Nat) :=
  [(⟨c.mem.type, 2⟩, x.mt.code), (⟨c.mem.ctx, 7⟩, x.ctx), (⟨c.mem.fixed, 1⟩, x.fixed.toNat)]

theorem Source.memFields_fit (c : Encoding) {x : Source} (hx : x.WellFormed) : ∀ p ∈ x.memFields c, p.2 < 2 ^ p.1.width := by
  simp only [memFields, List.forall_mem_cons]
  exact ⟨code_lt x.mt, hx.2.2, Bool.toNat_lt _, List.forall_mem_nil _⟩

theorem encodeSource_eq (c : Encoding) (x : Source) :
    encodeSource c x = toLe x.cbSrc 4 ++ encodeAddr x.addr (pack (x.memFields c)) := by
  simp only [encodeSource, encodeAddr, Source.memFields, List.append_assoc]

theorem decodeSource_encodeDesc {c : Encoding} (hc : c.WF) {src : Source} (hx : src.WellFormed) (i : Instr) (dst key : Bytes) :
    decodeSource c (encodeDesc c i src dst key) = src := by
  have hfit := src.memFields_fit c hx
  have hcb : descWord (encodeDesc c i src dst key) 1 = src.cbSrc := by
    rw [descWord_encodeDesc_source (k := 0) (by decide), encodeSource_eq, descWord_zero_append]
    exact Nat.mod_eq_of_lt hx.1
  have hword : ∀ k < 2,
      descWord (encodeDesc c i src dst key) (2 + k) = descWord (encodeAddr src.addr (pack (src.memFields c))) k := by
    intro k hk
    rw [show 2 + k = 1 + (1 + k) by omega, descWord_encodeDesc_source (by omega), encodeSource_eq,
      descWord_append_right (length_toLe _ 4)]
  obtain ⟨haddr, hmem⟩ := decode_encodeAddr hx.2.1 (pack_lt hfit hc.mem.1) (hword 0 (by decide)) (hword 1 (by decide))
  have hread : ∀ p ∈ src.memFields c, field (pack (src.memFields c)) p.1.lo p.1.width = p.2 := fun p hp =>
    getField_pack hfit hc.mem.2 hp
  have htype : field (pack (src.memFields c)) c.mem.type 2 = src.mt.code := hread _ (.head _)
  have hctx : field (pack (src.memFields c)) c.mem.ctx 7 = src.ctx := hread _ (.tail _ (.head _))
  have hfixed : bitAt (pack (src.memFields c)) c.mem.fixed = src.fixed :=
    bitAt_of_field_eq_toNat (hread _ (.tail _ (.tail _ (.head _))))
  rw [decodeSource, hcb, haddr, hmem, htype, hctx, hfixed, ofCode_code]

/-- A destination or key operand is read back from its two words. -/
theorem decodePlace_eq {c : Encoding} (hc : c.WF) {d : Bytes} {k : Nat} {x : Place} (hx : x.WellFormed)
    (hlo : descWord d k = descWord (encodePlace c x) 0) (hhi : descWord d (k + 1) = descWord (encodePlace c x) 1) :
    decodePlace c d k = x := by
  have hcode : (x.mt.code : Nat) < 2 ^ (⟨c.mem.type, 2⟩ : BitField).width := code_lt x.mt
  have hlt : pack [(⟨c.mem.type, 2⟩, x.mt.code)] < 2 ^ 16 :=
    pack_lt (List.forall_mem_singleton.2 hcode) (List.forall_mem_singleton.2 (hc.mem.1 _ (.head _)))
  have hread : field (pack [(⟨c.mem.type, 2⟩, x.mt.code)]) c.mem.type 2 = x.mt.code :=
    getField_pack (List.forall_mem_singleton.2 hcode) (List.pairwise_singleton ..) (.head _)
  obtain ⟨haddr, hmem⟩ := decode_encodeAddr hx hlt hlo hhi
  rw [decodePlace, haddr, hmem, hread, ofCode_code]

theorem decodePlace_encodeDesc_dst {c : Encoding} (hc : c.WF) {x : Place} (hx : x.WellFormed) (i : Instr) (src : Source)
    (key : Bytes) : decodePlace c (encodeDesc c i src (encodePlace c x) key) 4 = x :=
  decodePlace_eq hc hx (descWord_encodeDesc_dst (length_encodePlace c x) (k := 0) (by decide))
    (descWord_encodeDesc_dst (length_encodePlace c x) (k := 1) (by decide))

theorem decodePlace_encodeDesc_key {c : Encoding} (hc : c.WF) {x : Place} (hx : x.WellFormed) (i : Instr) (src : Source)
    {dst : Bytes} (hd : dst.length = 8) : decodePlace c (encodeDesc c i src dst (encodePlace c x)) 6 = x :=
  decodePlace_eq hc hx (descWord_encodeDesc_key hd 0) (descWord_encodeDesc_key hd 1)

theorem decodeShaBits_encodeDesc {n : Nat} (hn : n < 2 ^ 64) (c : Encoding) (i : Instr) (src : Source) (key : Bytes) :
    decodeShaBits (encodeDesc c i src (encodeShaBits n) key) = n := by
  have hlen := length_encodeShaBits n
  rw [decodeShaBits, descWord_encodeDesc_dst hlen (k := 1) (by decide), descWord_encodeDesc_dst hlen (k := 0) (by decide),
    encodeShaBits, descWord_append_right (n := 1) (k := 0) (length_toLe _ 4), descWord_append_left (by rw [length_toLe]),
    descWord_toLe, descWord_toLe]
  omega

/-! ## Decoding after encoding -/

theorem length_encodeWith (c : Encoding) (i : Instr) : (encodeWith c i).length = 32 := by
  cases i with
  | sha256 | sha384 => exact length_encodeDesc _ _ _ (length_encodeShaBits _) length_encodeNoKey
  | ptCopy | ptSwap256 | zlibInflate | eccMulf | eccAddf | eccInvf | eccMulc | eccMuladdc =>
    exact length_encodeDesc _ _ _ (length_encodePlace _ _) length_encodeNoKey
  | _ => exact length_encodeDesc _ _ _ (length_encodePlace _ _) (length_encodePlace _ _)

theorem descWord_encodeWith {c : Encoding} (hc : c.WF) {i : Instr} (hi : i.WellFormed) :
    descWord (encodeWith c i) 0 = i.dw0 c := by
  have hword : descWord (encodeWith c i) 0 = i.dw0 c % 256 ^ 4 := by cases i <;> exact descWord_encodeDesc ..
  exact hword.trans (Nat.mod_eq_of_lt (i.dw0_lt hc hi))

/-- The operands of an encoded command are read back (R100 to R107, R113). -/
theorem Instr.readFrom_encodeWith {c : Encoding} (hc : c.WF) {i : Instr} (hi : i.WellFormed) :
    i.readFrom c (encodeWith c i) = i := by
  obtain ⟨hflags, -, hfunction⟩ := decode_dw0 hc hi (descWord_encodeWith hc hi)
  cases i with
  | ptCopy fl src dst | ptSwap256 fl src dst | zlibInflate fl src dst =>
    obtain ⟨hsrc, hdst⟩ := of_decide_eq_true hi
    rw [readFrom, hflags, encodeWith, decodeSource_encodeDesc hc hsrc, decodePlace_encodeDesc_dst hc hdst, flags]
  | sha256 fl src n | sha384 fl src n =>
    obtain ⟨hsrc, hn⟩ := of_decide_eq_true hi
    rw [readFrom, hflags, encodeWith, decodeSource_encodeDesc hc hsrc, decodeShaBits_encodeDesc hn, flags]
  | aes128EcbDec fl src dst key | aes128EcbEnc fl src dst key | aes128CbcDec fl src dst key | aes128CbcEnc fl src dst key
  | aes256EcbDec fl src dst key | aes256EcbEnc fl src dst key | aes256CbcDec fl src dst key | aes256CbcEnc fl src dst key
  | rsaModexp2048 fl src dst key | rsaModexp4096 fl src dst key =>
    obtain ⟨hsrc, hdst, hkey⟩ := of_decide_eq_true hi
    rw [readFrom, hflags, encodeWith, decodeSource_encodeDesc hc hsrc, decodePlace_encodeDesc_dst hc hdst,
      decodePlace_encodeDesc_key hc hkey _ _ (length_encodePlace c dst), flags]
  | eccMulf fl src dst bits | eccAddf fl src dst bits | eccInvf fl src dst bits | eccMulc fl src dst bits
  | eccMuladdc fl src dst bits =>
    obtain ⟨hsrc, hdst, -⟩ := of_decide_eq_true hi
    have hbits := getField_functionFields hc hi (p := (c.ecc.bits, bits)) (.tail _ (.head _))
    rw [readFrom, hflags, hfunction, hbits, encodeWith, decodeSource_encodeDesc hc hsrc, decodePlace_encodeDesc_dst hc hdst, flags]

/-- Settles O1: `dw0` holds the engine code and a function field that selects the command, and every operand is read back. -/
theorem decodeInvertsEncode : Obligations.DecodeInvertsEncode := by
  intro c i hc hi
  obtain ⟨-, hengine, hfunction⟩ := decode_dw0 hc hi (descWord_encodeWith hc hi)
  have hsel : i.selectedBy c (dw0Function c (encodeWith c i)) = true :=
    hfunction ▸ Instr.selectedBy_iff.2 fun _ => i.getField_functionFields hc hi
  exact (decodeWith_eq_ok_iff hc).2 ⟨length_encodeWith c i, hengine.symm, i.readFrom_encodeWith hc hi, hsel⟩

end Sys2Proof
end

section
/-! PROOFS. The bits that the decoder and the engines ignore (30_encoding.md R116). -/

namespace Sys2Proof

open Machine

/-! ## Descriptors that agree on what the decoder reads -/

/-- Two descriptors give the decoder the same operands and the same choice of a command, as far as their engine reads them
(R105 to R114). -/
structure SameFields (d e : Bytes) : Prop where
  flags : decodeFlags Encoding.default d = decodeFlags Encoding.default e
  engine : dw0Engine Encoding.default d = dw0Engine Encoding.default e
  source : decodeSource Encoding.default d = decodeSource Encoding.default e
  dst : dw0Engine Encoding.default d ≠ 3 → decodePlace Encoding.default d 4 = decodePlace Encoding.default e 4
  shaBits : dw0Engine Encoding.default d = 3 → decodeShaBits d = decodeShaBits e
  key : dw0Engine Encoding.default d ∈ [0, 4] → decodePlace Encoding.default d 6 = decodePlace Encoding.default e 6
  function : dw0Engine Encoding.default d ∈ [0, 4, 7] → dw0Function Encoding.default d = dw0Function Encoding.default e
  shaFunction : dw0Engine Encoding.default d = 3 →
    field (dw0Function Encoding.default d) 10 4 = field (dw0Function Encoding.default e) 10 4
  ptFunction : dw0Engine Encoding.default d = 5 →
    field (dw0Function Encoding.default d) 0 7 = field (dw0Function Encoding.default e) 0 7

namespace SameFields
variable {d e : Bytes}

theorem symm (h : SameFields d e) : SameFields e d where
  flags := h.flags.symm
  engine := h.engine.symm
  source := h.source.symm
  dst he := (h.dst (h.engine ▸ he)).symm
  shaBits he := (h.shaBits (h.engine ▸ he)).symm
  key he := (h.key (h.engine ▸ he)).symm
  function he := (h.function (h.engine ▸ he)).symm
  shaFunction he := (h.shaFunction (h.engine ▸ he)).symm
  ptFunction he := (h.ptFunction (h.engine ▸ he)).symm

/-- A command of their engine gets the same operands from both. -/
theorem readFrom_eq (h : SameFields d e) {i : Instr} (hi : i.engineCode Encoding.default = dw0Engine Encoding.default d) :
    i.readFrom Encoding.default d = i.readFrom Encoding.default e := by
  obtain ⟨hflags, -, hsource, hdst, hshaBits, hkey, hfunction, -, -⟩ := h
  rw [← hi] at hdst hshaBits hkey hfunction
  cases i with
  | sha256 | sha384 => simp only [Instr.readFrom, hflags, hsource, hshaBits rfl]
  | ptCopy | ptSwap256 => simp only [Instr.readFrom, hflags, hsource, hdst (show 5 ≠ 3 by decide)]
  | zlibInflate => simp only [Instr.readFrom, hflags, hsource, hdst (show 6 ≠ 3 by decide)]
  | eccMulf | eccAddf | eccInvf | eccMulc | eccMuladdc =>
    simp only [Instr.readFrom, hflags, hsource, hdst (show 7 ≠ 3 by decide), hfunction (show 7 ∈ [0, 4, 7] by decide)]
  | rsaModexp2048 | rsaModexp4096 =>
    simp only [Instr.readFrom, hflags, hsource, hdst (show 4 ≠ 3 by decide), hkey (show 4 ∈ [0, 4] by decide)]
  | aes128EcbDec | aes128EcbEnc | aes128CbcDec | aes128CbcEnc | aes256EcbDec | aes256EcbEnc | aes256CbcDec | aes256CbcEnc =>
    simp only [Instr.readFrom, hflags, hsource, hdst (show 0 ≠ 3 by decide), hkey (show 0 ∈ [0, 4] by decide)]

/-- The fields that choose a command of their engine are the same in both. -/
theorem getField_function_eq (h : SameFields d e) {i : Instr}
    (hi : i.engineCode Encoding.default = dw0Engine Encoding.default d) :
    ∀ p ∈ i.functionFields Encoding.default,
      getField (dw0Function Encoding.default d) p.1 = getField (dw0Function Encoding.default e) p.1 := by
  obtain ⟨-, -, -, -, -, -, hfunction, hsha, hpt⟩ := h
  rw [← hi] at hfunction hsha hpt
  cases i with
  | sha256 | sha384 => exact List.forall_mem_singleton.2 (hsha rfl)
  | ptCopy | ptSwap256 =>
    have hsub : ∀ b : BitField, b.lo + b.width ≤ 7 →
        getField (dw0Function Encoding.default d) b = getField (dw0Function Encoding.default e) b := fun b hb => by
      simpa only [getField, Nat.zero_add] using field_eq_of_field_eq (hpt rfl) hb
    simp only [Instr.functionFields, List.forall_mem_cons]
    exact ⟨hsub _ (by decide), hsub _ (by decide), hsub _ (by decide), List.forall_mem_nil _⟩
  | zlibInflate => exact List.forall_mem_nil _
  | eccMulf | eccAddf | eccInvf | eccMulc | eccMuladdc => exact fun p _ => by rw [hfunction (show 7 ∈ [0, 4, 7] by decide)]
  | rsaModexp2048 | rsaModexp4096 => exact fun p _ => by rw [hfunction (show 4 ∈ [0, 4, 7] by decide)]
  | _ => exact fun p _ => by rw [hfunction (show 0 ∈ [0, 4, 7] by decide)]

theorem decode_ok (h : SameFields d e) (hlen : e.length = 32) {i : Instr} (hi : decode d = .ok i) : decode e = .ok i := by
  obtain ⟨-, hengine, hread, hsel⟩ := (decodeWith_eq_ok_iff Laws.default_encoding_wf).1 hi
  rw [h.readFrom_eq hengine] at hread
  have hsel' : i.selectedBy Encoding.default (dw0Function Encoding.default e) = true := Instr.selectedBy_iff.2 fun p hp =>
    (h.getField_function_eq hengine p hp).symm.trans (Instr.selectedBy_iff.1 hsel p hp)
  exact (decodeWith_eq_ok_iff Laws.default_encoding_wf).2 ⟨hlen, hengine.trans h.engine, hread, hsel'⟩

theorem decode_error (h : SameFields d e) (hd : d.length = 32) (he : e.length = 32) {r : Reject} (hr : decode d = .error r) :
    ∃ q, decode e = .error q ∧ rejectKind q = rejectKind r ∧
      (dw0Function Encoding.default d = dw0Function Encoding.default e → r = q) := by
  cases hq : decode e with
  | ok i => exact absurd ((h.symm.decode_ok hd hq).symm.trans hr) (by simp)
  | error q =>
    refine ⟨q, rfl, ?_⟩
    rw [reject_eq hd hr, reject_eq he hq, h.engine]
    split
    · exact ⟨rfl, fun hf => by rw [hf]⟩
    · exact ⟨rfl, fun _ => rfl⟩

theorem decode_eq (h : SameFields d e) (hd : d.length = 32) (he : e.length = 32)
    (hf : dw0Function Encoding.default d = dw0Function Encoding.default e) : decode d = decode e := by
  cases hr : decode d with
  | ok i => exact (h.decode_ok he hr).symm
  | error r =>
    obtain ⟨q, hq, -, heq⟩ := h.decode_error hd he hr
    rw [hq, heq hf]

end SameFields

/-! ## The bits that the decoder reads -/

theorem bitAt_eq_of_field_eq {w v lo n a : Nat} (h : field w lo n = field v lo n) (ha : a < n) :
    bitAt w (lo + a) = bitAt v (lo + a) := by
  rw [bitAt, bitAt, field_eq_of_field_eq h ha]

/-- Of the two words of a destination or key operand the low 32 and the low 18 bits are read. -/
theorem decodePlace_congr {d e : Bytes} {k : Nat} (hlo : descWord d k = descWord e k)
    (hhi : field (descWord d (k + 1)) 0 18 = field (descWord e (k + 1)) 0 18) :
    decodePlace Encoding.default d k = decodePlace Encoding.default e k := by
  have haddr : field (descWord d (k + 1)) 0 16 = field (descWord e (k + 1)) 0 16 :=
    field_eq_of_field_eq hhi (a := 0) (by decide)
  have htype : field (memTypeWord d (k + 1)) 0 2 = field (memTypeWord e (k + 1)) 0 2 := by
    rw [memTypeWord, memTypeWord, field_field (by decide), field_field (by decide)]
    exact field_eq_of_field_eq hhi (a := 16) (by decide)
  simp only [decodePlace, decodeAddr, hlo, haddr, Encoding.default, htype]

/-- Of the words of a source operand all but the bits 25 to 30 of the last are read. -/
theorem decodeSource_congr {d e : Bytes} (h1 : descWord d 1 = descWord e 1) (h2 : descWord d 2 = descWord e 2)
    (h3 : field (descWord d 3) 0 25 = field (descWord e 3) 0 25) (hfixed : bitAt (descWord d 3) 31 = bitAt (descWord e 3) 31) :
    decodeSource Encoding.default d = decodeSource Encoding.default e := by
  have haddr : field (descWord d 3) 0 16 = field (descWord e 3) 0 16 := field_eq_of_field_eq h3 (a := 0) (by decide)
  have hmem : ∀ a m, a + m ≤ 9 → field (memTypeWord d 3) a m = field (memTypeWord e 3) a m := by
    intro a m ham
    rw [memTypeWord, memTypeWord, field_field (by omega), field_field (by omega)]
    simpa only [Nat.zero_add] using field_eq_of_field_eq h3 (a := 16 + a) (m := m) (by omega)
  have hbit : ∀ b : Bytes, bitAt (memTypeWord b 3) 15 = bitAt (descWord b 3) 31 := fun b => by
    rw [bitAt, bitAt, memTypeWord, field_field (by decide)]
  simp only [decodeSource, decodeAddr, h1, h2, haddr, Encoding.default, hmem 0 2 (by decide), hmem 2 7 (by decide), hbit, hfixed]

/-! ## The operands that an engine ignores -/

theorem ptCopy_fixed (src : Source) (b : Bool) (dst : Place) (s : State) :
    ptCopy { src with fixed := b } dst s = ptCopy src dst s := rfl

theorem ptSwap256_fixed (src : Source) (b : Bool) (dst : Place) (s : State) :
    ptSwap256 { src with fixed := b } dst s = ptSwap256 src dst s := rfl

theorem shaCommand_init_fixed (t : ShaType) (fl : MsgFlags) (a : Bool) (src : Source) (b : Bool) (s : State) :
    shaCommand t { fl with init := a } { src with fixed := b } s = shaCommand t fl src s := rfl

theorem aesCommand_fixed (dw0 : Nat) (p : AesParams) (fl : MsgFlags) (src : Source) (b : Bool) (dst key : Place) (s : State) :
    aesCommand dw0 p ⟨fl, { src with fixed := b }, dst, key⟩ s = aesCommand dw0 p ⟨fl, src, dst, key⟩ s := rfl

theorem rsaCommand_fixed (size : Nat) (src : Source) (b : Bool) (dst key : Place) (s : State) :
    rsaCommand size { src with fixed := b } dst key s = rsaCommand size src dst key s := rfl

theorem eccCommand_fixed (blen rlen : Nat) (op : Bytes → Except ErrKind Bytes) (src : Source) (b : Bool) (dst : Place)
    (bits : Nat) (s : State) :
    eccCommand blen rlen op { src with fixed := b } dst bits s = eccCommand blen rlen op src dst bits s := rfl

theorem zlibCommand_fixed (fl : MsgFlags) (src : Source) (b : Bool) (dst : Place) (s : State) :
    zlibCommand fl { src with fixed := b } dst s = zlibCommand fl src dst s := rfl

/-- A command runs alike whatever the operands that its engine ignores (R116). -/
theorem exec_withoutIgnored (i : Instr) (s : State) : exec (withoutIgnored i) s = exec i s := by
  cases i with
  | ptCopy fl src dst => exact congrArg retire (ptCopy_fixed src false dst s)
  | ptSwap256 fl src dst => exact congrArg retire (ptSwap256_fixed src false dst s)
  | sha256 fl src n | sha384 fl src n => exact congrArg retire (shaCommand_init_fixed _ fl false src false s)
  | rsaModexp2048 fl src dst key | rsaModexp4096 fl src dst key =>
    exact congrArg retire (rsaCommand_fixed _ src false dst key s)
  | eccMulf fl src dst bits | eccAddf fl src dst bits | eccInvf fl src dst bits | eccMulc fl src dst bits
  | eccMuladdc fl src dst bits => exact congrArg retire (eccCommand_fixed _ _ _ src false dst bits s)
  | zlibInflate fl src dst => exact congrArg retire (zlibCommand_fixed fl src false dst s)
  | aes128EcbDec fl src dst key | aes128EcbEnc fl src dst key | aes128CbcDec fl src dst key | aes128CbcEnc fl src dst key
  | aes256EcbDec fl src dst key | aes256EcbEnc fl src dst key | aes256CbcDec fl src dst key | aes256CbcEnc fl src dst key =>
    exact congrArg retire (aesCommand_fixed _ _ fl src false dst key s)

/-! ## The statements -/

/-- Settles O4: the listed bits give both descriptors the same fields, and an engine that ignores an operand runs alike without
it. -/
theorem ignoredBitsDoNotMatter : Obligations.IgnoredBitsDoNotMatter := by
  refine ⟨fun d e hd he hflags hengine hsha hpt hfunction h1 h2 h3 hfixed h4 h5 hkey => ?_, exec_withoutIgnored⟩
  have hfields : SameFields d e :=
    { flags := congrArg₂ MsgFlags.mk (bitAt_eq_of_field_eq hflags (a := 0) (by decide))
        (bitAt_eq_of_field_eq hflags (a := 1) (by decide))
      engine := hengine
      source := decodeSource_congr h1 h2 h3 hfixed
      dst := fun hne => decodePlace_congr h4 ((if_neg hne).mp h5)
      shaBits := fun heq => by rw [decodeShaBits, decodeShaBits, h4, (if_pos heq).mp h5]
      key := fun hmem => decodePlace_congr (hkey hmem).1 (hkey hmem).2
      function := hfunction
      shaFunction := fun heq => by
        rw [dw0Function, dw0Function, field_field (by decide), field_field (by decide)]
        exact hsha heq
      ptFunction := fun heq => by
        rw [dw0Function, dw0Function, field_field (by decide), field_field (by decide)]
        exact hpt heq }
  refine ⟨fun i => hfields.decode_ok he, fun r hr => ?_, hfields.decode_eq hd he⟩
  obtain ⟨q, hq, hkind, -⟩ := hfields.decode_error hd he hr
  exact ⟨q, hq, hkind⟩

/-- Settles O5: the decoder evaluated on each of the words. -/
theorem wordsDecodeAsWritten : Obligations.WordsDecodeAsWritten := by
  refine ⟨?sha, ?passthrough, ?aes, ?rsa, ?ecc, ?zlib⟩
  case sha => decide
  case passthrough => decide
  case aes => decide
  case rsa => decide
  case ecc => decide
  case zlib => decide

end Sys2Proof
end

section
/-! PROOFS. The error path of the queue controller (47_queue_controller.md R259, R260; 60_exceptions.md R350, R352) and the
descriptors that take it (40_dispatch.md R143; 47_queue_controller.md R257). -/

namespace Sys2Proof.Machine

/-! ## The two ends of a command move no data -/

theorem SameData.sameBytes {s t : State} (h : SameData s t) : SameBytes s t := by
  intro mt a
  cases mt with
  | sb => exact congrArg (Memory.read · a) h.lsb
  | localMem => exact congrArg (Memory.read · a) h.localMem
  | system => rfl
  | code3 => rfl

theorem sameData_complete (s : State) : SameData s (complete s) := sameData_setQueue s s.cur _

theorem sameData_finishAccess (s : State) : SameData s (finishAccess s) := by
  unfold finishAccess
  split
  · exact ⟨rfl⟩
  · exact (sameData_setPhase s .idle).trans (sameData_respond _ _)

theorem sameData_takeError (k : ErrKind) (s : State) : SameData s (takeError k s) :=
  (sameData_setQueue s s.cur _).trans ((sameData_setQueue _ _ _).trans (sameData_finishAccess _))

/-! ## The error path, field by field -/

section Draining
variable {s : State} {r : Reply}

theorem takeError_freeCount (k : ErrKind) (hp : s.phase = .draining r) : (takeError k s).freeCount = s.freeCount := by
  rw [takeError_draining s k hp, respond_freeCount, State.setPhase_freeCount, State.setQueue_freeCount]

/-- Taking an error writes the registers that R259 and R260 name, and ends the access. -/
theorem takeError_failed (k : ErrKind) (hp : s.phase = .draining r) : Failed s (takeError k s) := by
  rw [takeError_draining s k hp]
  refine ⟨?queue, ⟨?others, ?params, ?pending, ?cur⟩, rfl, rfl, ?responses⟩
  case queue => rw [respond_queue, State.setPhase_queue, State.setQueue_queue]; rfl
  case others => exact fun q hq => by rw [respond_queue, State.setPhase_queue, State.setQueue_queue_ne s _ hq]
  case params => exact State.setQueue_params s s.cur _
  case pending => exact State.setQueue_pending s s.cur _
  case cur => exact State.setQueue_cur s s.cur _
  case responses => exact ⟨_, congrArg (_ :: ·) (State.setQueue_responses s s.cur _)⟩

/-! ## The fetch of a descriptor -/

/-- The fetch reads LOCAL memory through the gateway: a 32-bit address cannot reach its limit of 2^48 (R54, R257). -/
theorem fetchDesc_eq (s : State) :
    fetchDesc s =
      if s.serves .localMem (s.queue s.cur).head.toNat 32 then some (s.bytesAt .localMem (s.queue s.cur).head.toNat 32)
      else none := by
  have hlimit : (s.queue s.cur).head.toNat + 32 ≤ 2 ^ 48 := by have := (s.queue s.cur).head.isLt; omega
  have hserves : s.serves .localMem (s.queue s.cur).head.toNat 32 = mappedRange s.params (s.queue s.cur).head.toNat 32 := by
    rw [State.serves, decide_eq_true hlimit]
    rfl
  rw [hserves, State.bytesAt_localMem]
  rfl

/-- With a descriptor queued, a step of a drain is a turn of its loop (R255). -/
theorem step_draining (hp : s.phase = .draining r) (hne : (s.queue s.cur).head ≠ (s.queue s.cur).tail) :
    step s = drainStep s := by
  have hturn : drainDone s = false := beq_eq_false_iff_ne.2 hne
  simp [step, hp, hturn]

/-- A fetch that is not served and a descriptor that is no command do nothing but take an error (R143, R257). -/
theorem drainStep_takesError
    (h : s.serves .localMem (s.queue s.cur).head.toNat 32 = false ∨
      ∃ e, decodeWith s.params.encoding (s.bytesAt .localMem (s.queue s.cur).head.toNat 32) = .error e) :
    ∃ k, drainStep s = .next (takeError k s) := by
  cases hserves : s.serves .localMem (s.queue s.cur).head.toNat 32 with
  | false => exact ⟨.engineError, by simp [drainStep, fetchDesc_eq, hserves]⟩
  | true =>
    obtain ⟨e, he⟩ := h.resolve_left (by simp [hserves])
    exact ⟨rejectKind e, by simp [drainStep, fetchDesc_eq, hserves, he]⟩

end Draining

/-- Settles O39: both take the error path, and that path moves no data. -/
theorem badDescriptorsStopTheQueue : Obligations.BadDescriptorsStopTheQueue := by
  intro s r hp hne hbad
  obtain ⟨k, hk⟩ := drainStep_takesError hbad
  have hdata := sameData_takeError k s
  exact ⟨takeError k s, (step_draining hp hne).trans hk, takeError_failed k hp, hdata.sessions, hdata.sameBytes,
    hdata.cbWrittenLast, takeError_freeCount k hp⟩

end Sys2Proof.Machine
end

section
/-! PROOFS. Which sessions a command touches (40_dispatch.md R146, D27): its own engine's alone, which an error empties. -/

namespace Sys2Proof.Machine

/-! ## The engines that have a session -/

/-- The engines that have a session (10_state.md R20 to R22). -/
inductive SessionEngine where
  | sha
  | aes
  | zlib

/-- The engine whose session a command works on, if its engine has one. -/
def sessionEngineOf (i : Instr) : Option SessionEngine :=
  if (shaOf i).isSome then some .sha
  else if (aesOf i).isSome then some .aes
  else if isZlib i then some .zlib
  else none

theorem sessionEngineOf_eq_sha_iff (i : Instr) : sessionEngineOf i = some .sha ↔ shaOf i ≠ none := by
  cases i <;> simp [sessionEngineOf, shaOf, aesOf, isZlib]

theorem sessionEngineOf_eq_aes_iff (i : Instr) : sessionEngineOf i = some .aes ↔ aesOf i ≠ none := by
  cases i <;> simp [sessionEngineOf, shaOf, aesOf, isZlib]

theorem sessionEngineOf_eq_zlib_iff (i : Instr) : sessionEngineOf i = some .zlib ↔ isZlib i ≠ false := by
  cases i <;> simp [sessionEngineOf, shaOf, aesOf, isZlib]

/-- The session of an engine is empty. -/
def State.NoSession (s : State) : SessionEngine → Prop
  | .sha => s.sha = none
  | .aes => s.aes = none
  | .zlib => s.zlib = none

/-- The state with the session of an engine emptied. -/
def State.dropSession (e : SessionEngine) (s : State) : State :=
  match e with
  | .sha => s.setSha none
  | .aes => s.setAes none
  | .zlib => s.setZlib none

theorem State.dropSession_noSession (e : SessionEngine) (s : State) : (s.dropSession e).NoSession e := by
  cases e <;> rfl

/-! ## What a part of a command leaves of the sessions -/

/-- Every session is kept but that of `own`. -/
structure KeepsForeign (own : Option SessionEngine) (s t : State) : Prop where
  sha : own ≠ some .sha → t.sha = s.sha
  aes : own ≠ some .aes → t.aes = s.aes
  zlib : own ≠ some .zlib → t.zlib = s.zlib

/-- What a part of a command that works on the session of `own` leaves: the other sessions, and the drain in progress. -/
structure WorksOn (own : Option SessionEngine) (s t : State) : Prop extends KeepsForeign own s t where
  phase : t.phase = s.phase

theorem KeepsForeign.trans {own : Option SessionEngine} {s t u : State} (h1 : KeepsForeign own s t)
    (h2 : KeepsForeign own t u) : KeepsForeign own s u where
  sha h := (h2.sha h).trans (h1.sha h)
  aes h := (h2.aes h).trans (h1.aes h)
  zlib h := (h2.zlib h).trans (h1.zlib h)

theorem WorksOn.trans {own : Option SessionEngine} {s t u : State} (h1 : WorksOn own s t) (h2 : WorksOn own t u) :
    WorksOn own s u :=
  ⟨h1.toKeepsForeign.trans h2.toKeepsForeign, h2.phase.trans h1.phase⟩

theorem SameData.keepsForeign {s t : State} (h : SameData s t) (own : Option SessionEngine) : KeepsForeign own s t := by
  obtain ⟨hsha, haes, hzlib⟩ := h.sessions
  exact ⟨fun _ => hsha, fun _ => haes, fun _ => hzlib⟩

theorem SameData.noSession {s t : State} (h : SameData s t) {e : SessionEngine} (hs : s.NoSession e) : t.NoSession e := by
  obtain ⟨hsha, haes, hzlib⟩ := h.sessions
  cases e with
  | sha => exact hsha.trans hs
  | aes => exact haes.trans hs
  | zlib => exact hzlib.trans hs

theorem Moved.worksOn {s t : State} (h : Moved s t) (own : Option SessionEngine) : WorksOn own s t :=
  ⟨⟨fun _ => h.sha, fun _ => h.aes, fun _ => h.zlib⟩, h.phase⟩

theorem worksOn_setSha (s : State) (v : Option ShaSession) : WorksOn (some .sha) s (s.setSha v) :=
  ⟨⟨fun h => absurd rfl h, fun _ => rfl, fun _ => rfl⟩, rfl⟩

theorem worksOn_setAes (s : State) (v : Option AesSession) : WorksOn (some .aes) s (s.setAes v) :=
  ⟨⟨fun _ => rfl, fun h => absurd rfl h, fun _ => rfl⟩, rfl⟩

theorem worksOn_setZlib (s : State) (v : Option ZlibSession) : WorksOn (some .zlib) s (s.setZlib v) :=
  ⟨⟨fun _ => rfl, fun _ => rfl, fun h => absurd rfl h⟩, rfl⟩

theorem worksOn_bumpFree (own : Option SessionEngine) (s : State) : WorksOn own s s.bumpFree :=
  ⟨⟨fun _ => rfl, fun _ => rfl, fun _ => rfl⟩, rfl⟩

theorem worksOn_dropSession (e : SessionEngine) (s : State) : WorksOn (some e) s (s.dropSession e) := by
  cases e with
  | sha => exact worksOn_setSha s none
  | aes => exact worksOn_setAes s none
  | zlib => exact worksOn_setZlib s none

theorem Res.Ends.worksOn {α : Type} {own : Option SessionEngine} {r : Res α} {s : State} (h : r.Ends (Moved s)) :
    r.Ends (WorksOn own s) :=
  h.mono fun _ hm => hm.worksOn own

theorem Res.Ends.andThen_worksOn {α β : Type} {own : Option SessionEngine} {r : Res α} {f : α → State → Res β} {s : State}
    (hr : r.Ends (WorksOn own s)) (hf : ∀ a u, (f a u).Ends (WorksOn own u)) : (r.andThen f).Ends (WorksOn own s) :=
  hr.andThen_trans (R := WorksOn own) (fun _ _ _ => WorksOn.trans) fun a u _ => hf a u

/-! ## What a whole command leaves of them -/

/-- The outcome of a command of `own` begun in `s`: the other sessions are kept, and one that raised left its own empty. -/
def Res.OwnsSession {α : Type} (own : Option SessionEngine) (s : State) : Res α → Prop
  | .ok _ u => WorksOn own s u
  | .raise _ u => WorksOn own s u ∧ ∀ e, own = some e → u.NoSession e

theorem Res.Ends.ownsSession_none {α : Type} {r : Res α} {s : State} (h : r.Ends (Moved s)) : r.OwnsSession none s := by
  cases r with
  | ok a u => exact Moved.worksOn h none
  | raise k u => exact ⟨Moved.worksOn h none, fun _ he => by cases he⟩

/-- Where an error empties the session of `e`, a command that works on it leaves what D27 says. -/
theorem Res.Ends.onRaise_ownsSession {α : Type} {e : SessionEngine} {r : Res α} {s : State}
    (h : r.Ends (WorksOn (some e) s)) : (r.onRaise (State.dropSession e)).OwnsSession (some e) s := by
  cases r with
  | ok a u => exact h
  | raise k u => exact ⟨h.trans (worksOn_dropSession e u), fun _ he => Option.some.inj he ▸ u.dropSession_noSession e⟩

theorem shaClose_worksOn (t : ShaType) (eom : Bool) (msg : Bytes) (x : Xfer) (s : State) :
    (shaClose t eom msg x s).Ends (WorksOn (some .sha) s) := by
  unfold shaClose
  split
  · exact (xferWrite_moved x _ s).worksOn.andThen_worksOn fun _ u => worksOn_setSha u none
  · exact worksOn_setSha s _

theorem shaCommand_ownsSession (t : ShaType) (fl : MsgFlags) (src : Source) (s : State) :
    (shaCommand t fl src s).OwnsSession (some .sha) s := by
  refine Res.Ends.onRaise_ownsSession (e := .sha) ((shaLookup_moved t s).worksOn.andThen_worksOn fun msg u => ?_)
  exact (Res.Ends.ofRead _ _ ((xferClear_moved u).worksOn _)).andThen_worksOn fun p v => shaClose_worksOn t fl.eom p.1 p.2 v

theorem aesClose_worksOn (eom : Bool) (sess : AesSession) (x : Xfer) (s : State) :
    (aesClose eom sess x s).Ends (WorksOn (some .aes) s) := by
  unfold aesClose
  split
  · split
    · exact worksOn_setAes s none
    · exact (Moved.refl s).worksOn _
  · exact worksOn_setAes s _

/-- A session fed with the source and closed. -/
theorem aesRun_worksOn (fuel : Nat) (eom : Bool) (sess : AesSession) (x : Xfer) (s : State) :
    ((aesLoop fuel sess x s).andThen fun q s2 => aesClose eom q.1 q.2 s2).Ends (WorksOn (some .aes) s) :=
  (aesLoop_moved fuel sess x s).worksOn.andThen_worksOn fun q u => aesClose_worksOn eom q.1 q.2 u

theorem aesLocal_worksOn (p : AesParams) (r : AesReq) (s : State) : (aesLocal p r s).Ends (WorksOn (some .aes) s) := by
  have hclear : WorksOn (some .aes) s (xferClear s) := (xferClear_moved s).worksOn _
  unfold aesLocal
  split
  · exact (Res.Ends.ofRead _ _ hclear).andThen_worksOn fun sess u => aesRun_worksOn _ _ sess _ u
  · split
    · exact (aesRun_worksOn _ _ _ _ _).mono fun _ => hclear.trans
    · exact (sessionMismatch_moved Xfer s).worksOn

/-- A proxy command draws a free value and leaves every session (R189). -/
theorem aesProxy_worksOn (own : Option SessionEngine) (dw0 : Nat) (p : AesParams) (r : AesReq) (s : State) :
    (aesProxy dw0 p r s).Ends (WorksOn own s) := by
  refine (Res.Ends.ofRead _ _ ((xferClear_moved s).worksOn own)).andThen_worksOn fun q u => ?_
  dsimp only
  split
  · exact worksOn_bumpFree own u
  · exact (xferWriteSome_moved q.2 _ _).mono fun _ hm => (worksOn_bumpFree own u).trans (hm.worksOn own)

theorem aesCommand_ownsSession (dw0 : Nat) (p : AesParams) (r : AesReq) (s : State) :
    (aesCommand dw0 p r s).OwnsSession (some .aes) s := by
  refine Res.Ends.onRaise_ownsSession (e := .aes) ?_
  split
  · exact aesProxy_worksOn _ dw0 p r s
  · exact aesLocal_worksOn p r s

theorem zlibCommand_ownsSession (fl : MsgFlags) (src : Source) (dst : Place) (s : State) :
    (zlibCommand fl src dst s).OwnsSession (some .zlib) s := by
  refine Res.Ends.onRaise_ownsSession (e := .zlib) ?_
  have hloop := (zlibLoop_moved src.cbSrc (zlibStart fl.init s) [] (xferOf src dst none false) (xferClear s)).mono
    fun _ => (xferClear_moved s).trans
  exact hloop.worksOn.andThen_worksOn fun q u =>
    (xferWriteSome_moved q.2.2 q.2.1 u).worksOn.andThen_worksOn fun _ v => worksOn_setZlib v _

/-! ## Every command (40_dispatch.md R142) -/

/-- Every arm of the dispatch retires a command that touches no session but its engine's. -/
theorem exec_ownsSession (i : Instr) (s : State) :
    ∃ r : Res Xfer, exec i s = retire r ∧ r.OwnsSession (sessionEngineOf i) s := by
  cases i with
  | ptCopy fl src dst => exact ⟨_, rfl, (ptCopy_moved src dst s).ownsSession_none⟩
  | ptSwap256 fl src dst => exact ⟨_, rfl, (ptSwap256_moved src dst s).ownsSession_none⟩
  | sha256 fl src n | sha384 fl src n => exact ⟨_, rfl, shaCommand_ownsSession _ fl src s⟩
  | aes128EcbDec fl src dst key | aes128EcbEnc fl src dst key | aes128CbcDec fl src dst key | aes128CbcEnc fl src dst key
  | aes256EcbDec fl src dst key | aes256EcbEnc fl src dst key | aes256CbcDec fl src dst key | aes256CbcEnc fl src dst key =>
    exact ⟨_, rfl, aesCommand_ownsSession _ _ _ s⟩
  | rsaModexp2048 fl src dst key | rsaModexp4096 fl src dst key =>
    exact ⟨_, rfl, (rsaCommand_moved _ src dst key s).ownsSession_none⟩
  | eccMulf fl src dst bits | eccAddf fl src dst bits | eccInvf fl src dst bits | eccMulc fl src dst bits
  | eccMuladdc fl src dst bits => exact ⟨_, rfl, (eccCommand_moved _ _ _ src dst bits s).ownsSession_none⟩
  | zlibInflate fl src dst => exact ⟨_, rfl, zlibCommand_ownsSession fl src dst s⟩

/-- The two ends of a command keep the sessions as it left them; only the error path ends the drain (R258, R260). -/
theorem Res.OwnsSession.retired {α : Type} {own : Option SessionEngine} {r : Res α} {s t : State} {reply : Reply}
    (h : r.OwnsSession own s) (hp : s.phase = .draining reply) (ht : retire r = .next t) :
    KeepsForeign own s t ∧ (t.phase = .idle → ∀ e, own = some e → t.NoSession e) := by
  cases r with
  | ok a u =>
    have hu : WorksOn own s u := h
    obtain rfl := Host.Outcome.next.inj ht
    refine ⟨hu.toKeepsForeign.trans ((sameData_complete u).keepsForeign own), fun hidle => ?_⟩
    rw [complete_phase, hu.phase, hp] at hidle
    cases hidle
  | raise k u =>
    obtain ⟨hu, hempty⟩ := h
    obtain rfl := Host.Outcome.next.inj ht
    have hdata := sameData_takeError k u
    exact ⟨hu.toKeepsForeign.trans (hdata.keepsForeign own), fun _ e he => hdata.noSession (hempty e he)⟩

/-- Settles O37: the command's own engine is the one that `sessionEngineOf` names. -/
theorem commandsKeepForeignSessions : Obligations.CommandsKeepForeignSessions := by
  intro i s t r hp ht
  obtain ⟨res, hres, howns⟩ := exec_ownsSession i s
  obtain ⟨hkeep, hempty⟩ := howns.retired hp (hres.symm.trans ht)
  refine ⟨?sha, ?aes, ?zlib⟩
  case sha =>
    split
    next hforeign => exact hkeep.sha fun e => (sessionEngineOf_eq_sha_iff i).1 e hforeign
    next hown => exact fun hidle => hempty hidle .sha ((sessionEngineOf_eq_sha_iff i).2 hown)
  case aes =>
    split
    next hforeign => exact hkeep.aes fun e => (sessionEngineOf_eq_aes_iff i).1 e hforeign
    next hown => exact fun hidle => hempty hidle .aes ((sessionEngineOf_eq_aes_iff i).2 hown)
  case zlib =>
    split
    next hforeign => exact hkeep.zlib fun e => (sessionEngineOf_eq_zlib_iff i).1 e hforeign
    next hown => exact fun hidle => hempty hidle .zlib ((sessionEngineOf_eq_zlib_iff i).2 hown)

end Sys2Proof.Machine
end

section
/-! PROOFS. The two ends of a command whose transfer changed nothing but memory and the counter (47_queue_controller.md R258 to
R260), read against the state before the command. -/

namespace Sys2Proof.Machine

theorem SameBytes.bytesAt {s t : State} (h : SameBytes s t) (mt : MemType) (a n : Nat) :
    t.bytesAt mt a n = s.bytesAt mt a n :=
  State.bytesAt_congr fun x _ _ => h mt x

theorem SameBytes.trans {s t u : State} (h1 : SameBytes s t) (h2 : SameBytes t u) : SameBytes s u :=
  fun mt a => (h2 mt a).trans (h1 mt a)

theorem SameBytes.symm {s t : State} (h : SameBytes s t) : SameBytes t s := fun mt a => (h mt a).symm

theorem sameBytes_xferClear (s : State) : SameBytes s (xferClear s) := xferClear_byteAt s

/-! ## The registers -/

theorem complete_succeeded (s : State) : Succeeded s (complete s) := by
  refine ⟨complete_queue s, ⟨fun q hq => complete_queue_ne s hq, ?params, ?pending, ?cur⟩, ?phase, ?irqLine, ?responses⟩
  case params => exact complete_params s
  case pending => exact complete_pending s
  case cur => exact complete_cur s
  case phase => exact complete_phase s
  case irqLine => exact complete_irqLine s
  case responses => exact complete_responses s

theorem Moved.succeeded {s u t : State} (h : Moved s u) (ht : Succeeded u t) : Succeeded s t := by
  simpa only [Succeeded, Untouched, h.queue, h.params, h.pending, h.cur, h.phase, h.irqLine, h.responses] using ht

theorem Moved.failed {s u t : State} (h : Moved s u) (ht : Failed u t) : Failed s t := by
  simpa only [Failed, Untouched, h.queue, h.params, h.pending, h.cur, h.responses] using ht

/-! ## The data -/

/-- What an end of a command keeps of the state `u` that its transfer left: all data, and the count of free values. -/
structure EndOf (u t : State) : Prop extends SameData u t where
  freeCount : t.freeCount = u.freeCount

theorem endOf_complete (u : State) : EndOf u (complete u) := ⟨sameData_complete u, complete_freeCount u⟩

theorem endOf_takeError {u : State} {r : Reply} (k : ErrKind) (hp : u.phase = .draining r) : EndOf u (takeError k u) :=
  ⟨sameData_takeError k u, takeError_freeCount k hp⟩

/-- The sessions and free values after a command that only moved data. -/
theorem EndOf.kept {s u t : State} (h : EndOf u t) (hm : Moved s u) : SameSessions s t ∧ t.freeCount = s.freeCount := by
  obtain ⟨hsha, haes, hzlib⟩ := h.sessions
  exact ⟨⟨hsha.trans hm.sha, haes.trans hm.aes, hzlib.trans hm.zlib⟩, h.freeCount.trans hm.freeCount⟩

/-- Everything a command leaves, the registers apart, that cleared the counter and then wrote `n` bytes at `d` (R53, R60). -/
theorem EndOf.leaves {s u t : State} {d : Place} {v : Bytes} {n : Nat} (h : EndOf u t) (hu : Wrote (xferClear s) u d v)
    (hn : v.length = n) :
    SameSessions s t ∧ t.freeCount = s.freeCount ∧ SameOutside s t d n ∧ t.cbWrittenLast = writtenAfter d n := by
  subst hn
  obtain ⟨hsessions, hfree⟩ := h.kept ((xferClear_moved s).trans hu.moved)
  refine ⟨hsessions, hfree, ?outside, ?count⟩
  case outside =>
    intro mt a ha
    rw [h.sameBytes, hu.sameOutside mt a ha, xferClear_byteAt]
  case count => simp [h.cbWrittenLast, hu.count, writtenAfter]

/-- The registers after a command that went on to its end, whose transfer only moved data. -/
theorem Moved.succeeded_complete {s u : State} (h : Moved s u) : Succeeded s (complete u) :=
  h.succeeded (complete_succeeded u)

/-- The error path of a command that had only moved data. -/
theorem Moved.failed_takeError {s u : State} {r : Reply} (h : Moved s u) (k : ErrKind) (hp : s.phase = .draining r) :
    Failed s (takeError k u) ∧ EndOf u (takeError k u) := by
  have hpu : u.phase = .draining r := h.phase.trans hp
  exact ⟨h.failed (takeError_failed k hpu), endOf_takeError k hpu⟩

end Sys2Proof.Machine
end

section
/-! PROOFS. `pt.copy` (41_passthrough.md R161): the loop moves pieces of 4096 bytes, lowest first, and stops at the first one
that the gateway refuses. -/

namespace Sys2Proof

/-- What is left of a source after its first `k` bytes. -/
def Source.past (x : Source) (k : Nat) : Source := { x with addr := x.addr + k, cbSrc := x.cbSrc - k }

/-- The place `k` bytes on. -/
def Place.past (d : Place) (k : Nat) : Place := { d with addr := d.addr + k }

end Sys2Proof

namespace Sys2Proof.Machine

/-! ## Writes one after the other -/

/-- A write just above another one leaves what one write of both leaves. -/
theorem Wrote.above {s t u : State} {mt : MemType} {a : Nat} {v w : Bytes} (h : Wrote s t ⟨a, mt⟩ v)
    (h' : Wrote t u ⟨a + v.length, mt⟩ w) : Wrote s u ⟨a, mt⟩ (v ++ w) where
  moved := h.moved.trans h'.moved
  count := by
    rw [h'.count, h.count, List.length_append, BitVec.ofNat_add, ← BitVec.add_assoc]
    split <;> rfl
  bytes m x := by
    simp only [h'.bytes, h.bytes, List.length_append]
    rcases Nat.lt_or_ge x (a + v.length) with hlow | hhigh
    · rw [if_neg (show ¬(m = mt ∧ a + v.length ≤ x ∧ x < a + v.length + w.length) by omega)]
      by_cases hin : m = mt ∧ a ≤ x
      · rw [if_pos ⟨hin.1, hin.2, hlow⟩, if_pos ⟨hin.1, hin.2, by omega⟩, List.getD_append _ _ _ _ (by omega)]
      · rw [if_neg fun hv => hin ⟨hv.1, hv.2.1⟩, if_neg fun hv => hin ⟨hv.1, hv.2.1⟩]
    · rw [if_neg (show ¬(m = mt ∧ a ≤ x ∧ x < a + v.length) by omega)]
      by_cases hin : m = mt ∧ x < a + v.length + w.length
      · rw [if_pos ⟨hin.1, hhigh, hin.2⟩, if_pos ⟨hin.1, by omega, by omega⟩, List.getD_append_right _ _ _ _ (by omega),
          Nat.sub_sub]
      · rw [if_neg fun hv => hin ⟨hv.1, hv.2.2⟩, if_neg fun hv => hin ⟨hv.1, by omega⟩]

/-- What a write leaves depends on the bytes it found alone. -/
theorem Wrote.sameBytes {s t s' t' : State} {d : Place} {v : Bytes} (h : Wrote s t d v) (h' : Wrote s' t' d v)
    (hs : SameBytes s s') : SameBytes t t' := by
  intro m x
  rw [h.bytes, h'.bytes, hs m x]

/-! ## Reads and writes of the transfer context (R62, R63) -/

theorem xferRead_of_not_serves {x : Xfer} {n : Nat} {s : State} (hn : n ≠ 0) (hl : n ≤ x.rdLeft)
    (h : s.serves x.srcMt x.srcAddr n = false) : xferRead x n s = .error (refusalKind x.srcMt x.srcAddr n) := by
  simp [xferRead, hl, memRead_of_not_serves hn h]

theorem xferWrite_of_not_serves {x : Xfer} {v : Bytes} {s : State} (hr : x.reverse = false) (hv : v ≠ [])
    (hf : x.fits v.length = true) (h : s.serves x.dstMt x.dstAddr v.length = false) :
    xferWrite x v s = .raise (refusalKind x.dstMt x.dstAddr v.length) s := by
  simp [xferWrite, hr, hf, memWrite_of_not_serves hv h]

theorem xferWrite_wrote {x : Xfer} {v : Bytes} {s : State} (hw : s.MemoryWf) (hr : x.reverse = false) (hv : v ≠ [])
    (hf : x.fits v.length = true) (h : s.serves x.dstMt x.dstAddr v.length = true) :
    ∃ t, xferWrite x v s = .ok { x with dstAddr := x.dstAddr + v.length, wrLeft := x.spend v.length } t ∧
      Wrote s t ⟨x.dstAddr, x.dstMt⟩ v := by
  obtain ⟨t, hwrite, ht⟩ := xferWrite_forward hr hv hf h
  obtain ⟨-, hmoved, hcount, hbytes⟩ := memWrite_ok ht
  exact ⟨t, hwrite, hmoved, hcount, hbytes hw⟩

/-! ## What a copy does to memory -/

/-- From `s` to `t` the bytes of `src` were moved to `dst` in pieces of 4096 bytes, the lowest first, each read only after the
pieces before it were written (20_memory.md R66, R76). -/
inductive Copied : Source → Place → State → State → Prop where
  | done {src : Source} {dst : Place} {s : State} (hnone : src.cbSrc = 0) : Copied src dst s s
  | piece {src : Source} {dst : Place} {s t u : State} (k : Nat) (hsome : src.cbSrc ≠ 0) (hk : k = min 4096 src.cbSrc)
      (hpiece : Wrote s t dst (s.bytesAt src.mt src.addr k)) (hrest : Copied (src.past k) (dst.past k) t u) :
      Copied src dst s u

namespace Copied

/-- Seen from outside, a copy is one write of as many bytes. -/
theorem wrote {src : Source} {dst : Place} {s t : State} (h : Copied src dst s t) :
    ∃ v : Bytes, v.length = src.cbSrc ∧ Wrote s t dst v := by
  induction h with
  | @done src dst s hnone => exact ⟨[], hnone.symm, .nil s dst⟩
  | @piece src dst s t u k hsome hk hpiece hrest ih =>
    obtain ⟨w, hlen, hw⟩ := ih
    have hw' : Wrote t u (dst.past (s.bytesAt src.mt src.addr k).length) w := by rwa [State.bytesAt_length]
    have hleft : (src.past k).cbSrc = src.cbSrc - k := rfl
    exact ⟨_, by rw [List.length_append, State.bytesAt_length]; omega, hpiece.above hw'⟩

/-- What a copy leaves depends on the bytes it found alone. -/
theorem sameBytes {src : Source} {dst : Place} {s t s' t' : State} (h : Copied src dst s t) (h' : Copied src dst s' t')
    (hs : SameBytes s s') : SameBytes t t' := by
  induction h generalizing s' with
  | done hnone =>
    cases h' with
    | done => exact hs
    | piece k hsome => exact absurd hnone hsome
  | piece k hsome hk hpiece hrest ih =>
    cases h' with
    | done hnone => exact absurd hnone hsome
    | piece k' _ hk' hpiece' hrest' =>
      obtain rfl : k' = k := hk'.trans hk.symm
      rw [hs.bytesAt] at hpiece'
      exact ih hrest' (hpiece.sameBytes hpiece' hs)

/-- A copy of more than one piece is a copy of the first and then a copy of the rest. -/
theorem split {src : Source} {dst : Place} {s u : State} {k : Nat} (h : Copied src dst s u) (hk : k = 4096)
    (hlong : k < src.cbSrc) : ∃ t, Copied { src with cbSrc := k } dst s t ∧ Copied (src.past k) (dst.past k) t u := by
  cases h with
  | done hnone => omega
  | @piece _ _ _ t _ k' hsome hk' hpiece hrest =>
    obtain rfl : k' = k := by omega
    exact ⟨t, .piece k' (show k' ≠ 0 by omega) (show k' = min 4096 k' by omega) hpiece (.done (Nat.sub_self k')), hrest⟩

end Copied

/-- A source that is read as it stood is read so past its first piece, which is written below what is still to be read. -/
theorem sourceStable_past {src : Source} {dst : Place} {k : Nat} (h : sourceStable 4096 src dst src.cbSrc)
    (hk : k = min 4096 src.cbSrc) :
    sourceStable 4096 (src.past k) (dst.past k) (src.past k).cbSrc ∧
      ∀ x, src.addr + k ≤ x → x < src.addr + src.cbSrc → src.mt = dst.mt → x < dst.addr ∨ dst.addr + k ≤ x := by
  simp only [sourceStable, sourceDisjoint, Source.past, Place.past, Bool.or_eq_true, bne_iff_ne, decide_eq_true_eq] at h ⊢
  rcases h with hone | (hmt | hapart) | ⟨hmt, hle⟩
  · exact ⟨.inl (by omega), fun x _ _ _ => by omega⟩
  · exact ⟨.inr (.inl (.inl hmt)), fun x _ _ he => absurd he hmt⟩
  · exact ⟨.inr (.inl (.inr (decide_eq_true (by omega)))), fun x _ _ _ => by omega⟩
  · exact ⟨.inr (.inr ⟨hmt, by omega⟩), fun x _ _ _ => by omega⟩

/-- Where the source is read as it stood, its bytes stand at the destination. -/
theorem Copied.bytesAt {src : Source} {dst : Place} {s t : State} (h : Copied src dst s t)
    (hstable : sourceStable 4096 src dst src.cbSrc) :
    t.bytesAt dst.mt dst.addr src.cbSrc = s.bytesAt src.mt src.addr src.cbSrc := by
  induction h with
  | @done src dst s hnone => rw [hnone]; rfl
  | @piece src dst s t u k hsome hk hpiece hrest ih =>
    obtain ⟨hstable', hunread⟩ := sourceStable_past hstable hk
    obtain ⟨w, hlen, hw⟩ := hrest.wrote
    have hfirst : u.bytesAt dst.mt dst.addr k = s.bytesAt src.mt src.addr k := by
      have hkept : u.bytesAt dst.mt dst.addr k = t.bytesAt dst.mt dst.addr k :=
        State.bytesAt_congr fun x _ hx => hw.sameOutside dst.mt x fun _ => .inl hx
      have hput := hpiece.bytesAt
      rw [State.bytesAt_length] at hput
      exact hkept.trans hput
    have hlater : u.bytesAt dst.mt (dst.addr + k) (src.cbSrc - k) = s.bytesAt src.mt (src.addr + k) (src.cbSrc - k) := by
      have hend : src.addr + k + (src.cbSrc - k) = src.addr + src.cbSrc := by omega
      refine (ih hstable').trans (State.bytesAt_congr fun x hlo hhi => hpiece.sameOutside src.mt x fun hmt => ?_)
      rw [State.bytesAt_length]
      exact hunread x hlo (hhi.trans_eq hend) hmt
    have hcut : src.cbSrc = k + (src.cbSrc - k) := by omega
    rw [hcut, State.bytesAt_append, State.bytesAt_append, hfirst, hlater]

/-! ## The loop -/

/-- The transfer context of a copy. -/
abbrev copyXfer (src : Source) (dst : Place) : Xfer := xferOf src dst (some src.cbSrc) false

/-- The transfer context of a copy when a piece of `k` bytes is read and not yet written. -/
abbrev copyXferRead (src : Source) (dst : Place) (k : Nat) : Xfer :=
  { copyXfer src dst with srcAddr := src.addr + k, rdLeft := src.cbSrc - k }

theorem ptCopyLoop_done {fuel : Nat} {src : Source} {dst : Place} {s : State} (h : src.cbSrc = 0) :
    ptCopyLoop fuel (copyXfer src dst) s = .ok (copyXfer src dst) s := by
  cases fuel with
  | zero => rfl
  | succ n => exact if_pos h

section Piece
variable {fuel : Nat} {src : Source} {dst : Place} {s : State} {k : Nat} (hsome : src.cbSrc ≠ 0)
  (hk : k = min 4096 src.cbSrc)
include hsome hk

theorem ptCopyLoop_turn :
    ptCopyLoop (fuel + 1) (copyXfer src dst) s =
      (Res.ofRead s (xferRead (copyXfer src dst) k s)).andThen fun p s1 =>
        (xferWrite p.2 p.1 s1).andThen fun x2 s2 => ptCopyLoop fuel x2 s2 := by
  subst hk
  exact if_neg hsome

/-- A turn of the loop with a source that is served. -/
theorem ptCopyLoop_read (hsrc : s.serves src.mt src.addr k = true) :
    ptCopyLoop (fuel + 1) (copyXfer src dst) s =
      (xferWrite (copyXferRead src dst k) (s.bytesAt src.mt src.addr k) s).andThen fun x t => ptCopyLoop fuel x t := by
  have hread := xferRead_of_serves (x := copyXfer src dst) (by omega) (show k ≤ src.cbSrc by omega) hsrc
  rw [ptCopyLoop_turn hsome hk, hread]
  rfl

/-- A turn of the loop with a piece that is served at its source and at its destination. -/
theorem ptCopyLoop_piece (hw : s.MemoryWf) (hsrc : s.serves src.mt src.addr k = true)
    (hdst : s.serves dst.mt dst.addr k = true) :
    ∃ t, ptCopyLoop (fuel + 1) (copyXfer src dst) s = ptCopyLoop fuel (copyXfer (src.past k) (dst.past k)) t ∧
      Wrote s t dst (s.bytesAt src.mt src.addr k) := by
  have hlen := State.bytesAt_length s src.mt src.addr k
  have hne : s.bytesAt src.mt src.addr k ≠ [] := List.ne_nil_of_length_pos (by omega)
  obtain ⟨t, hwrite, hst⟩ := xferWrite_wrote (x := copyXferRead src dst k) hw rfl hne
    (decide_eq_true (show _ ≤ src.cbSrc by omega)) (by rwa [hlen])
  refine ⟨t, ?_, hst⟩
  rw [ptCopyLoop_read hsome hk hsrc, hwrite, hlen]
  rfl

/-- A piece that the gateway refuses, at its source or at its destination, raises with nothing written. -/
theorem ptCopyLoop_refused (h : s.serves src.mt src.addr k = false ∨ s.serves dst.mt dst.addr k = false) :
    ∃ e, ptCopyLoop (fuel + 1) (copyXfer src dst) s = .raise e s := by
  cases hsrc : s.serves src.mt src.addr k with
  | false =>
    have hread := xferRead_of_not_serves (x := copyXfer src dst) (by omega) (show k ≤ src.cbSrc by omega) hsrc
    exact ⟨_, by rw [ptCopyLoop_turn hsome hk, hread]; rfl⟩
  | true =>
    have hlen := State.bytesAt_length s src.mt src.addr k
    have hne : s.bytesAt src.mt src.addr k ≠ [] := List.ne_nil_of_length_pos (by omega)
    have hwrite := xferWrite_of_not_serves (x := copyXferRead src dst k) (s := s) rfl hne
      (decide_eq_true (show _ ≤ src.cbSrc by omega))
      (by rw [hlen]; exact h.resolve_left (by simp [hsrc]))
    exact ⟨_, by rw [ptCopyLoop_read hsome hk hsrc, hwrite]; rfl⟩

end Piece

/-- While the pieces are served the loop goes on: a served beginning of `p` bytes that ends with a piece is copied. -/
theorem ptCopyLoop_served {fuel p : Nat} {src : Source} {dst : Place} {s : State} (hw : s.MemoryWf) (hfuel : src.cbSrc ≤ fuel)
    (hp : p ≤ src.cbSrc) (hcut : p = src.cbSrc ∨ 4096 ∣ p) (hsrc : s.serves src.mt src.addr p = true)
    (hdst : s.serves dst.mt dst.addr p = true) :
    ∃ fuel' t, src.cbSrc - p ≤ fuel' ∧ Copied { src with cbSrc := p } dst s t ∧
      ptCopyLoop fuel (copyXfer src dst) s = ptCopyLoop fuel' (copyXfer (src.past p) (dst.past p)) t := by
  induction fuel generalizing src dst s p with
  | zero =>
    obtain rfl : p = 0 := by omega
    exact ⟨0, s, by omega, .done rfl, rfl⟩
  | succ n ih =>
    rcases Nat.eq_zero_or_pos p with rfl | hpos
    · exact ⟨n + 1, s, by omega, .done rfl, rfl⟩
    obtain ⟨k, hk⟩ : ∃ k, k = min 4096 src.cbSrc := ⟨_, rfl⟩
    have hkp : k = min 4096 p := by omega
    obtain ⟨t, hloop, hpiece⟩ := ptCopyLoop_piece (fuel := n) (by omega) hk hw
      (State.serves_mono hsrc (Nat.le_refl _) (by omega)) (State.serves_mono hdst (Nat.le_refl _) (by omega))
    have hrest (mt : MemType) (a : Nat) (ha : s.serves mt a p = true) : t.serves mt (a + k) (p - k) = true := by
      rw [hpiece.moved.serves]
      exact State.serves_mono ha (by omega) (by omega)
    obtain ⟨fuel', u, hleft, hcopied, hloop'⟩ := ih (p := p - k) (src := src.past k) (dst := dst.past k)
      (hpiece.moved.wf hw) (show src.cbSrc - k ≤ n by omega) (show p - k ≤ src.cbSrc - k by omega)
      (show p - k = src.cbSrc - k ∨ _ by omega) (hrest _ _ hsrc) (hrest _ _ hdst)
    have hsplit : k + (p - k) = p := by omega
    refine ⟨fuel', u, ?_, .piece k hpos.ne' hkp hpiece hcopied, ?_⟩
    · have hleft' : src.cbSrc - k - (p - k) ≤ fuel' := hleft
      omega
    · rw [hloop, hloop']
      simp only [Source.past, Place.past, Nat.add_assoc, Nat.sub_sub, hsplit]

/-! ## The command -/

/-- A copy whose source and destination are served goes on to its end. -/
theorem ptCopy_copied {src : Source} {dst : Place} {s : State} (hw : s.MemoryWf)
    (hsrc : s.serves src.mt src.addr src.cbSrc = true) (hdst : s.serves dst.mt dst.addr src.cbSrc = true) :
    ∃ x t, ptCopy src dst s = .ok x t ∧ Copied src dst (xferClear s) t := by
  obtain ⟨fuel, t, -, hcopied, hloop⟩ := ptCopyLoop_served (s := xferClear s) ((xferClear_moved s).wf hw) (Nat.le_refl _)
    (Nat.le_refl _) (.inl rfl) hsrc hdst
  exact ⟨_, t, hloop.trans (ptCopyLoop_done (Nat.sub_self _)), hcopied⟩

/-- A copy whose piece at `p` is the first that the gateway refuses raises with the `p` bytes before it copied. -/
theorem ptCopy_raises {src : Source} {dst : Place} {s : State} {p m : Nat} (hw : s.MemoryWf) (hcut : 4096 ∣ p)
    (hp : p < src.cbSrc) (hm : m = min 4096 (src.cbSrc - p)) (hsrc : s.serves src.mt src.addr p = true)
    (hdst : s.serves dst.mt dst.addr p = true)
    (h : s.serves src.mt (src.addr + p) m = false ∨ s.serves dst.mt (dst.addr + p) m = false) :
    ∃ e t, ptCopy src dst s = .raise e t ∧ Copied { src with cbSrc := p } dst (xferClear s) t := by
  obtain ⟨fuel, t, hfuel, hcopied, hloop⟩ := ptCopyLoop_served (s := xferClear s) ((xferClear_moved s).wf hw) (Nat.le_refl _)
    hp.le (.inr hcut) hsrc hdst
  obtain ⟨n, rfl⟩ : ∃ n, fuel = n + 1 := ⟨fuel - 1, by omega⟩
  obtain ⟨v, -, hwrote⟩ := hcopied.wrote
  have hserves := ((xferClear_moved s).trans hwrote.moved).serves
  obtain ⟨e, he⟩ := ptCopyLoop_refused (fuel := n) (src := src.past p) (dst := dst.past p) (s := t)
    (show src.cbSrc - p ≠ 0 by omega) hm (by rw [hserves, hserves]; exact h)
  exact ⟨e, t, hloop.trans he, hcopied⟩

/-- Everything a copy leaves, the registers apart. -/
theorem Copied.leaves {src : Source} {dst : Place} {s u t : State} (h : Copied src dst (xferClear s) u) (hend : EndOf u t) :
    (SameSessions s t ∧ t.freeCount = s.freeCount ∧ SameOutside s t dst src.cbSrc ∧
      t.cbWrittenLast = writtenAfter dst src.cbSrc) ∧
      (sourceStable 4096 src dst src.cbSrc →
        t.bytesAt dst.mt dst.addr src.cbSrc = s.bytesAt src.mt src.addr src.cbSrc) := by
  obtain ⟨v, hlen, hwrote⟩ := h.wrote
  refine ⟨hend.leaves hwrote hlen, fun hstable => ?_⟩
  rw [hend.sameBytes.bytesAt, h.bytesAt hstable, xferClear_bytesAt]

theorem Copied.moved {src : Source} {dst : Place} {s u : State} (h : Copied src dst (xferClear s) u) : Moved s u := by
  obtain ⟨v, -, hwrote⟩ := h.wrote
  exact (xferClear_moved s).trans hwrote.moved

theorem exec_ptCopy_copied {src : Source} {dst : Place} {s : State} (fl : MsgFlags) (hw : s.MemoryWf)
    (hsrc : s.serves src.mt src.addr src.cbSrc = true) (hdst : s.serves dst.mt dst.addr src.cbSrc = true) :
    ∃ u, exec (.ptCopy fl src dst) s = .next (complete u) ∧ Copied src dst (xferClear s) u := by
  obtain ⟨x, u, hcopy, hcopied⟩ := ptCopy_copied hw hsrc hdst
  exact ⟨u, congrArg retire hcopy, hcopied⟩

/-- A served copy of more than one piece leaves the bytes of two copies, the first of one piece. -/
theorem exec_ptCopy_twice {src : Source} {dst : Place} {s : State} {k : Nat} (fl : MsgFlags) (hw : s.MemoryWf) (hk : k = 4096)
    (hlong : k < src.cbSrc) (hsrc : s.serves src.mt src.addr src.cbSrc = true)
    (hdst : s.serves dst.mt dst.addr src.cbSrc = true) :
    ∃ t u w, exec (.ptCopy fl src dst) s = .next t ∧ exec (.ptCopy fl { src with cbSrc := k } dst) s = .next u ∧
      exec (.ptCopy fl (src.past k) (dst.past k)) u = .next w ∧ SameBytes w t := by
  obtain ⟨t, ht, hwhole⟩ := exec_ptCopy_copied fl hw hsrc hdst
  obtain ⟨u, hu, hfirst⟩ := exec_ptCopy_copied (src := { src with cbSrc := k }) fl hw
    (State.serves_mono hsrc (Nat.le_refl _) (Nat.add_le_add_left hlong.le _))
    (State.serves_mono hdst (Nat.le_refl _) (Nat.add_le_add_left hlong.le _))
  have hparams : (complete u).params = s.params := (complete_params u).trans hfirst.moved.params
  have hrest (mt : MemType) (a : Nat) (ha : s.serves mt a src.cbSrc = true) :
      (complete u).serves mt (a + k) (src.cbSrc - k) = true := by
    rw [State.serves_congr hparams]
    exact State.serves_mono ha (by omega) (by omega)
  have hwu : (complete u).MemoryWf := by
    rw [State.MemoryWf, complete_lsb, complete_localMem]
    exact hfirst.moved.wf hw
  obtain ⟨w, hw', hsecond⟩ := exec_ptCopy_copied (src := src.past k) (dst := dst.past k) fl hwu
    (hrest src.mt src.addr hsrc) (hrest dst.mt dst.addr hdst)
  refine ⟨_, _, _, ht, hu, hw', ?_⟩
  obtain ⟨v, hhead, htail⟩ := hwhole.split hk hlong
  have hbetween : SameBytes v (xferClear (complete u)) :=
    (hhead.sameBytes hfirst fun _ _ => rfl).trans ((sameData_complete u).sameBytes.trans (sameBytes_xferClear _))
  have hend : SameBytes t w := htail.sameBytes hsecond hbetween
  exact ((sameData_complete t).sameBytes.symm.trans (hend.trans (sameData_complete w).sameBytes)).symm

/-! ## The statements -/

/-- Settles O10: a served copy goes on to its end, and what a copy leaves is `Copied.leaves`. -/
theorem copyMovesBytes : Obligations.CopyMovesBytes := by
  intro s fl src dst hw hsrc hdst
  obtain ⟨u, hexec, hcopied⟩ := exec_ptCopy_copied fl hw hsrc hdst
  obtain ⟨⟨hsessions, hfree, houtside, hcount⟩, hbytes⟩ := hcopied.leaves (endOf_complete u)
  exact ⟨complete u, hexec, hcopied.moved.succeeded_complete, hsessions, hfree, houtside, hcount, hbytes⟩

/-- Settles O11: a long copy by its first piece, a failing one by the copy of the bytes before the refused piece. -/
theorem copyProceedsPieceByPiece : Obligations.CopyProceedsPieceByPiece := by
  intro s fl src dst hw
  refine ⟨exec_ptCopy_twice fl hw rfl, ?failing⟩
  case failing =>
    rintro r j p m hphase rfl hp hm hsrc hdst hrefused
    obtain ⟨e, u, hcopy, hcopied⟩ := ptCopy_raises hw (Nat.dvd_mul_right 4096 j) hp hm hsrc hdst hrefused
    obtain ⟨hfailed, hend⟩ := hcopied.moved.failed_takeError e hphase
    obtain ⟨⟨hsessions, hfree, houtside, hcount⟩, hbytes⟩ := hcopied.leaves hend
    exact ⟨takeError e u, congrArg retire hcopy, hfailed, hsessions, hfree, houtside, hcount, hbytes⟩

end Sys2Proof.Machine
end

section
/-! PROOFS. `pt.swap256` (41_passthrough.md R162, R163): the 32 bytes are read whole and written downward, one by one. -/

namespace Sys2Proof.Machine

/-- The byte `k` of a string stored in reverse order stands `k` bytes below the top. -/
theorem Wrote.byteAt_reverse {s t : State} {d : Place} {v : Bytes} {k : Nat} (h : Wrote s t d v.reverse) (hk : k < v.length) :
    t.byteAt d.mt (d.addr + (v.length - 1 - k)) = v.getD k 0 := by
  have hrev : v.length - 1 - k < v.reverse.length := by rw [List.length_reverse]; omega
  have hback : v.length - 1 - (v.length - 1 - k) = k := by omega
  rw [h.bytes, if_pos ⟨rfl, by omega, by omega⟩, Nat.add_sub_cancel_left, List.getD_eq_getElem _ _ hrev,
    List.getD_eq_getElem _ _ hk, List.getElem_reverse]
  simp only [hback]

/-- A downward write whose first byte is refused writes nothing. -/
theorem xferWriteDown_refused {x : Xfer} {v : Bytes} {s : State} (hv : v ≠ [])
    (h : s.serves x.dstMt (x.dstAddr - 1) 1 = false) :
    xferWriteDown x v s = .raise (refusalKind x.dstMt (x.dstAddr - 1) 1) s := by
  obtain ⟨b, rest, rfl⟩ := List.exists_cons_of_ne_nil hv
  rw [xferWriteDown_cons, memWrite_of_not_serves (List.cons_ne_nil b []) h]
  rfl

/-! ## The command -/

theorem ptSwap256_wrong_count {src : Source} (dst : Place) (s : State) (h : src.cbSrc ≠ 32) :
    ptSwap256 src dst s = .raise .notImplemented s := if_neg h

section Count
variable {src : Source} {dst : Place} {s : State} (hcount : src.cbSrc = 32)
include hcount

theorem ptSwap256_source_refused (hsrc : s.serves src.mt src.addr 32 = false) :
    ∃ e, ptSwap256 src dst s = .raise e (xferClear s) := by
  have hread := xferRead_of_not_serves (x := xferOf src dst (some 32) true) (s := xferClear s) (n := 32) (by decide)
    (show 32 ≤ src.cbSrc by omega) hsrc
  exact ⟨_, by rw [ptSwap256, if_pos hcount, hread]; rfl⟩

/-- With a source that is served the command is one downward write of its bytes from 32 bytes above the destination. -/
theorem ptSwap256_read (hsrc : s.serves src.mt src.addr 32 = true) :
    ∃ x : Xfer, x.dstMt = dst.mt ∧ x.dstAddr = dst.addr + 32 ∧
      ptSwap256 src dst s = xferWriteDown x (s.bytesAt src.mt src.addr 32) (xferClear s) := by
  have hread := xferRead_of_serves (x := xferOf src dst (some 32) true) (s := xferClear s) (n := 32) (by decide)
    (show 32 ≤ src.cbSrc by omega) hsrc
  refine ⟨{ xferOf src dst (some 32) true with srcAddr := src.addr + 32, rdLeft := src.cbSrc - 32 }, rfl, rfl, ?_⟩
  rw [ptSwap256, if_pos hcount, hread]
  exact xferWrite_reverse (xferClear s) rfl (decide_eq_true (State.bytesAt_length (xferClear s) src.mt src.addr 32).le)

theorem ptSwap256_wrote (hw : s.MemoryWf) (hsrc : s.serves src.mt src.addr 32 = true)
    (hdst : s.serves dst.mt dst.addr 32 = true) :
    ∃ x t, ptSwap256 src dst s = .ok x t ∧ Wrote (xferClear s) t dst (s.bytesAt src.mt src.addr 32).reverse := by
  obtain ⟨x, hmt, haddr, hswap⟩ := ptSwap256_read (dst := dst) hcount hsrc
  have hbottom : x.dstAddr - 32 = dst.addr := by omega
  obtain ⟨t, ht, hst⟩ := xferWriteDown_wrote (x := x) (v := s.bytesAt src.mt src.addr 32) (s := xferClear s)
    ((xferClear_moved s).wf hw) (by rw [State.bytesAt_length]; omega)
    (by rw [State.bytesAt_length, hbottom, hmt]; exact hdst)
  rw [State.bytesAt_length, hbottom, hmt] at hst
  exact ⟨_, t, hswap.trans ht, hst⟩

theorem ptSwap256_top_refused (hsrc : s.serves src.mt src.addr 32 = true) (hdst : s.serves dst.mt (dst.addr + 31) 1 = false) :
    ∃ e, ptSwap256 src dst s = .raise e (xferClear s) := by
  obtain ⟨x, hmt, haddr, hswap⟩ := ptSwap256_read (dst := dst) hcount hsrc
  have htop : x.dstAddr - 1 = dst.addr + 31 := by omega
  have hne : s.bytesAt src.mt src.addr 32 ≠ [] := List.ne_nil_of_length_pos (by rw [State.bytesAt_length]; decide)
  exact ⟨_, hswap.trans (xferWriteDown_refused hne (by rw [hmt, htop]; exact hdst))⟩

/-- Where the `i`-th destination byte down is refused, the bytes above it are written. -/
theorem ptSwap256_raises {i : Nat} (hw : s.MemoryWf) (hi : i < 32) (hsrc : s.serves src.mt src.addr 32 = true)
    (hbefore : s.serves dst.mt (dst.addr + 32 - i) i = true) (hat : s.serves dst.mt (dst.addr + 31 - i) 1 = false) :
    ∃ e t, ptSwap256 src dst s = .raise e t ∧
      Wrote (xferClear s) t ⟨dst.addr + 32 - i, dst.mt⟩ ((s.bytesAt src.mt src.addr 32).take i).reverse := by
  obtain ⟨x, hmt, haddr, hswap⟩ := ptSwap256_read (dst := dst) hcount hsrc
  have hdown : dst.addr + 32 - i - 1 = dst.addr + 31 - i := by omega
  obtain ⟨t, ht, hst⟩ := xferWriteDown_raises (x := x) (v := s.bytesAt src.mt src.addr 32) (s := xferClear s) (i := i)
    ((xferClear_moved s).wf hw) (by rwa [State.bytesAt_length]) (by rw [State.bytesAt_length]; omega)
    (by rw [haddr, hmt]; exact hbefore) (by rw [haddr, hmt, hdown]; exact hat)
  rw [haddr, hmt] at hst
  exact ⟨_, t, hswap.trans ht, hst⟩

end Count

/-- A failure before the first byte is written. -/
theorem ptSwap256_nothing_written {src : Source} {dst : Place} {s : State} (hcount : src.cbSrc = 32)
    (h : s.serves src.mt src.addr 32 = false ∨
      s.serves src.mt src.addr 32 = true ∧ dst.mt = .sb ∧ 4096 < dst.addr + 32) :
    ∃ e, ptSwap256 src dst s = .raise e (xferClear s) := by
  rcases h with hsrc | ⟨hsrc, hmt, hedge⟩
  · exact ptSwap256_source_refused hcount hsrc
  · refine ptSwap256_top_refused hcount hsrc ?_
    rw [hmt, ← Bool.not_eq_true, State.serves_sb_iff (by decide)]
    omega

/-! ## The statements -/

/-- Settles O12: the bytes are read before any is written, so the place of the destination does not matter. -/
theorem swapReversesBytes : Obligations.SwapReversesBytes := by
  intro s fl src dst hw hcount hsrc hdst
  obtain ⟨x, u, hswap, hwrote⟩ := ptSwap256_wrote hcount hw hsrc hdst
  have hend := endOf_complete u
  obtain ⟨hsessions, hfree, houtside, hwritten⟩ :=
    hend.leaves hwrote ((List.length_reverse).trans (State.bytesAt_length ..))
  refine ⟨complete u, congrArg retire hswap, ((xferClear_moved s).trans hwrote.moved).succeeded_complete, hsessions, hfree,
    houtside, hwritten, fun i hi => ?_⟩
  have hbyte := hwrote.byteAt_reverse (k := 31 - i) (by rw [State.bytesAt_length]; omega)
  rw [State.bytesAt_length, State.bytesAt_getD _ _ _ _ _ (by omega)] at hbyte
  rw [hend.sameBytes, show src.addr + 31 - i = src.addr + (31 - i) by omega, ← hbyte,
    show 32 - 1 - (31 - i) = i by omega]

/-- Settles O13: a failure in phase 1 leaves everything, one before the first byte clears the counter, a later one leaves the
bytes above the refused one. -/
theorem swapFailsCleanly : Obligations.SwapFailsCleanly := by
  intro s fl src dst r hphase
  refine ⟨?otherCount, ?nothingWritten, ?someWritten⟩
  case otherCount =>
    intro hcount
    obtain ⟨hfailed, hend⟩ := (Moved.refl s).failed_takeError .notImplemented hphase
    obtain ⟨hsessions, hfree⟩ := hend.kept (.refl s)
    exact ⟨_, congrArg retire (ptSwap256_wrong_count dst s hcount), hfailed, hsessions, hend.sameBytes,
      hend.cbWrittenLast, hfree⟩
  case nothingWritten =>
    intro hcount hrefused
    obtain ⟨e, hswap⟩ := ptSwap256_nothing_written hcount hrefused
    obtain ⟨hfailed, hend⟩ := (xferClear_moved s).failed_takeError e hphase
    obtain ⟨hsessions, hfree⟩ := hend.kept (xferClear_moved s)
    exact ⟨_, congrArg retire hswap, hfailed, hsessions, (sameBytes_xferClear s).trans hend.sameBytes,
      hend.cbWrittenLast, hfree⟩
  case someWritten =>
    intro i hcount hsrc hw hi hbefore hat
    obtain ⟨e, u, hswap, hwrote⟩ := ptSwap256_raises hcount hw hi hsrc hbefore hat
    obtain ⟨hfailed, hend⟩ := ((xferClear_moved s).trans hwrote.moved).failed_takeError e hphase
    have hlen : ((s.bytesAt src.mt src.addr 32).take i).length = i :=
      List.length_take_of_le (by rw [State.bytesAt_length]; omega)
    obtain ⟨hsessions, hfree, houtside, hwritten⟩ := hend.leaves hwrote (List.length_reverse.trans hlen)
    refine ⟨_, congrArg retire hswap, hfailed, hsessions, hfree, houtside, hwritten, fun k hk => ?_⟩
    have hbyte := hwrote.byteAt_reverse (k := k) (by omega)
    rw [hlen] at hbyte
    rw [hend.sameBytes, show dst.addr + 31 - k = dst.addr + 32 - i + (i - 1 - k) by omega, hbyte,
      ← State.bytesAt_getD s src.mt src.addr 32 k (by omega)]
    simp [List.getD_eq_getElem?_getD, hk]

end Sys2Proof.Machine
end

section
/-! PROOFS. The digests have the lengths that R170 gives them (49_reference_algorithms.md R311, R312). -/

namespace Sys2Proof.Machine

theorem length_toBe (v n : Nat) : (toBe v n).length = n := by rw [toBe, List.length_reverse, Laws.length_toLe]

/-- Words written out at `n` bytes each. -/
theorem length_flatMap_toBe {w : Nat} (n : Nat) (l : List (BitVec w)) :
    (l.flatMap fun x => toBe x.toNat n).length = l.length * n := by
  induction l with
  | nil => exact (Nat.zero_mul n).symm
  | cons x l ih => rw [List.flatMap_cons, List.length_append, length_toBe, ih, List.length_cons, Nat.succ_mul, Nat.add_comm]

/-- A block keeps the eight words of the hash. -/
theorem length_shaBlock {w : Nat} (r : ShaRots) (ks : List (BitVec w)) {hash : List (BitVec w)} (h : hash.length = 8)
    (block : Bytes) : (shaBlock r ks hash block).length = 8 := by
  rw [shaBlock, List.length_zipWith, h]
  rfl

theorem length_shaHash {w : Nat} (r : ShaRots) (ks : List (BitVec w)) {iv : List (BitVec w)} (h : iv.length = 8)
    (blockBytes : Nat) (padded : Bytes) : (shaHash r ks iv blockBytes padded).length = 8 := by
  unfold shaHash
  generalize pieces blockBytes (padded.length / blockBytes) padded = blocks
  induction blocks generalizing iv with
  | nil => exact h
  | cons b bs ih => exact ih (length_shaBlock r ks h b)

theorem length_shaDigest (ty : ShaType) (m : Bytes) : (shaDigest ty m).length = shaLen ty := by
  cases ty with
  | sha256 =>
    have h := length_shaHash sha256Rots sha256K (iv := sha256Iv) rfl 64 (shaPad 64 8 m)
    rw [shaDigest, sha256Digest, length_flatMap_toBe, h]
    rfl
  | sha384 =>
    have h := length_shaHash sha384Rots sha512K (iv := sha384Iv) rfl 128 (shaPad 128 16 m)
    rw [shaDigest, sha384Digest, length_flatMap_toBe, List.length_take, h]
    rfl

end Sys2Proof.Machine
end

section
/-! PROOFS. The two ends of a command that also wrote a session (47_queue_controller.md R258 to R260), read against the state
before the command. -/

namespace Sys2Proof.Machine

theorem Executed.pending {s t : State} (h : Executed s t) : t.pending = s.pending := by rw [h.rest]
theorem Executed.responses {s t : State} (h : Executed s t) : t.responses = s.responses := by rw [h.rest]

theorem Executed.succeeded_complete {s u : State} (h : Executed s u) : Succeeded s (complete u) := by
  simpa only [Succeeded, Untouched, h.queue, h.params, h.pending, h.cur, h.phase, h.irqLine, h.responses] using
    complete_succeeded u

theorem Executed.failed_takeError {s u : State} {r : Reply} (h : Executed s u) (k : ErrKind) (hp : s.phase = .draining r) :
    Failed s (takeError k u) := by
  simpa only [Failed, Untouched, h.queue, h.params, h.pending, h.cur, h.responses] using
    takeError_failed k (h.phase.trans hp)

theorem SameData.memoryWf {s t : State} (h : SameData s t) (hw : s.MemoryWf) : t.MemoryWf := by
  rw [State.MemoryWf, h.lsb, h.localMem]
  exact hw

/-- A command that keeps canonical memories keeps them whichever end it comes to. -/
theorem retire_memoryWf {α : Type} {r : Res α} {s t : State} (hr : r.Ends (Executed s)) (hw : s.MemoryWf)
    (ht : retire r = .next t) : t.MemoryWf := by
  obtain ⟨u, hu, hend | ⟨k, hend⟩⟩ := retire_next r hr
  · obtain rfl := Host.Outcome.next.inj (hend.symm.trans ht)
    exact (sameData_complete u).memoryWf (hu.memory hw)
  · obtain rfl := Host.Outcome.next.inj (hend.symm.trans ht)
    exact (sameData_takeError k u).memoryWf (hu.memory hw)

end Sys2Proof.Machine
end

section
/-! PROOFS. The update loop of SHA (42_sha.md R173): it reads the source in pieces, so it reads all of it or raises. -/

namespace Sys2Proof.Machine

/-! ## Served accesses side by side -/

theorem mappedRange_append {p : Params} {a n k : Nat} (h1 : mappedRange p a n = true) (h2 : mappedRange p (a + n) k = true) :
    mappedRange p a (n + k) = true := by
  simp only [mappedRange, List.all_eq_true, decide_eq_true_eq] at h1 h2 ⊢
  intro r hr
  have hlow := h1 r hr
  have hhigh := h2 r hr
  omega

theorem State.serves_append {s : State} {mt : MemType} {a n k : Nat} (h1 : s.serves mt a n = true)
    (h2 : s.serves mt (a + n) k = true) : s.serves mt a (n + k) = true := by
  rcases Nat.eq_zero_or_pos n with rfl | hn
  · rwa [Nat.zero_add]
  rcases Nat.eq_zero_or_pos k with rfl | hk
  · exact h1
  have hnk : n + k ≠ 0 := by omega
  cases mt with
  | system => simp [State.serves, hn.ne'] at h1
  | code3 => simp [State.serves, hn.ne'] at h1
  | sb =>
    rw [State.serves_sb_iff hn.ne'] at h1
    rw [State.serves_sb_iff hk.ne'] at h2
    rw [State.serves_sb_iff hnk]
    omega
  | localMem =>
    simp only [State.serves, beq_eq_false_iff_ne.2 hn.ne', beq_eq_false_iff_ne.2 hk.ne', beq_eq_false_iff_ne.2 hnk,
      Bool.false_or, Bool.and_eq_true, decide_eq_true_eq] at h1 h2 ⊢
    exact ⟨by omega, mappedRange_append h1.2 h2.2⟩

/-! ## The loop -/

/-- The context after `n` source bytes read. -/
def Xfer.advanced (x : Xfer) (n : Nat) : Xfer := { x with srcAddr := x.srcAddr + n, rdLeft := x.rdLeft - n }

theorem Xfer.advanced_zero (x : Xfer) : x.advanced 0 = x := rfl

theorem Xfer.advanced_advanced (x : Xfer) (n k : Nat) : (x.advanced n).advanced k = x.advanced (n + k) := by
  simp [Xfer.advanced, Nat.add_assoc, Nat.sub_sub]

section Loop
variable {fuel : Nat} {x : Xfer} {msg : Bytes} {s : State}

theorem shaUpdate_nothing_left (h : x.rdLeft = 0) :
    shaUpdate fuel x msg s = .ok (msg ++ s.bytesAt x.srcMt x.srcAddr x.rdLeft, x.advanced x.rdLeft) := by
  have hdone : shaUpdate fuel x msg s = .ok (msg, x) := by
    cases fuel with
    | zero => rfl
    | succ n => exact if_pos h
  rw [hdone, h, Xfer.advanced_zero, show s.bytesAt x.srcMt x.srcAddr 0 = [] from rfl, List.append_nil]

section Piece
variable {k : Nat} (hsome : x.rdLeft ≠ 0) (hk : k = min 4096 x.rdLeft)
include hsome hk

theorem shaUpdate_piece (h : s.serves x.srcMt x.srcAddr k = true) :
    shaUpdate (fuel + 1) x msg s = shaUpdate fuel (x.advanced k) (msg ++ s.bytesAt x.srcMt x.srcAddr k) s := by
  have hread : xferRead x (min shaChunk x.rdLeft) s = .ok (s.bytesAt x.srcMt x.srcAddr k, x.advanced k) := by
    rw [show min shaChunk x.rdLeft = k from hk.symm]
    exact xferRead_of_serves (by omega) (by omega) h
  simp only [shaUpdate, if_neg hsome, hread]

theorem shaUpdate_piece_refused (h : s.serves x.srcMt x.srcAddr k = false) :
    shaUpdate (fuel + 1) x msg s = .error (refusalKind x.srcMt x.srcAddr k) := by
  have hread : xferRead x (min shaChunk x.rdLeft) s = .error (refusalKind x.srcMt x.srcAddr k) := by
    rw [show min shaChunk x.rdLeft = k from hk.symm]
    exact xferRead_of_not_serves (by omega) (by omega) h
  simp only [shaUpdate, if_neg hsome, hread]

end Piece

/-- A source that is served is appended whole to the message. -/
theorem shaUpdate_served (hfuel : x.rdLeft ≤ fuel) (h : s.serves x.srcMt x.srcAddr x.rdLeft = true) :
    shaUpdate fuel x msg s = .ok (msg ++ s.bytesAt x.srcMt x.srcAddr x.rdLeft, x.advanced x.rdLeft) := by
  induction fuel generalizing x msg with
  | zero => exact shaUpdate_nothing_left (by omega)
  | succ n ih =>
    rcases Nat.eq_zero_or_pos x.rdLeft with hnone | hsome
    · exact shaUpdate_nothing_left hnone
    obtain ⟨k, hk⟩ : ∃ k, k = min 4096 x.rdLeft := ⟨_, rfl⟩
    obtain ⟨m, hm⟩ : ∃ m, x.rdLeft = k + m := ⟨x.rdLeft - k, by omega⟩
    have hleft : (x.advanced k).rdLeft = m := by rw [Xfer.advanced, hm, Nat.add_sub_cancel_left]
    have hrest := ih (x := x.advanced k) (msg := msg ++ s.bytesAt x.srcMt x.srcAddr k) (by omega)
      (by rw [hleft]; exact State.serves_mono h (Nat.le_add_right _ _) (show x.srcAddr + k + m ≤ _ by omega))
    rw [hleft] at hrest
    rw [shaUpdate_piece hsome.ne' hk (State.serves_mono h (Nat.le_refl _) (by omega)), hm, State.bytesAt_append,
      ← List.append_assoc, ← Xfer.advanced_advanced]
    exact hrest

/-- A source that is not served is refused at one of its pieces. -/
theorem shaUpdate_refused (hfuel : x.rdLeft ≤ fuel) (h : s.serves x.srcMt x.srcAddr x.rdLeft = false) :
    ∃ e, shaUpdate fuel x msg s = .error e := by
  have hsome : x.rdLeft ≠ 0 := by
    intro hnone
    rw [hnone] at h
    cases h
  induction fuel generalizing x msg with
  | zero => omega
  | succ n ih =>
    obtain ⟨k, hk⟩ : ∃ k, k = min 4096 x.rdLeft := ⟨_, rfl⟩
    cases hpiece : s.serves x.srcMt x.srcAddr k with
    | false => exact ⟨_, shaUpdate_piece_refused hsome hk hpiece⟩
    | true =>
      have hsplit : x.rdLeft = k + (x.rdLeft - k) := by omega
      have hrest : s.serves x.srcMt (x.srcAddr + k) (x.rdLeft - k) = false := by
        rw [hsplit] at h
        exact Bool.eq_false_iff.2 fun hserved => Bool.eq_false_iff.1 h (State.serves_append hpiece hserved)
      have hsome' : x.rdLeft - k ≠ 0 := by
        intro hnone
        rw [hnone] at hrest
        cases hrest
      rw [shaUpdate_piece hsome hk hpiece]
      exact ih (x := x.advanced k) (show x.rdLeft - k ≤ n by omega) hrest hsome'

end Loop

end Sys2Proof.Machine
end

section
/-! PROOFS. The SHA commands (42_sha.md R172 to R179): what they leave when they complete and when they raise. -/

namespace Sys2Proof.Machine

/-! ## The command -/

/-- The transfer context of a SHA command when its source has been read. -/
abbrev shaXferRead (ty : ShaType) (src : Source) : Xfer :=
  (xferOf src (shaDest src) (some (shaLen ty)) true).advanced src.cbSrc

section Command
variable {ty : ShaType} {fl : MsgFlags} {src : Source} {s : State}

theorem shaLookup_same (h : ∀ x, s.sha = some x → x.type = ty) :
    shaLookup ty s = .ok (s.sha.elim [] ShaSession.msg) s := by
  unfold shaLookup
  split
  next hnone => rw [hnone]; rfl
  next sess hsess => rw [if_pos (h sess hsess), hsess]; rfl

/-- A session of the other type is an error, which empties it (R179). -/
theorem shaCommand_otherType (h : ∃ x, s.sha = some x ∧ x.type ≠ ty) :
    ∃ u, shaCommand ty fl src s = .raise .engineError (u.setSha none) ∧ Moved s u ∧ SameBytes s u ∧
      u.cbWrittenLast = sessionErrorLeaves s := by
  obtain ⟨sess, hsess, hne⟩ := h
  obtain ⟨u, hu, hmoved, hcount, hbytes⟩ := sessionMismatch_raises Bytes s
  have hlookup : shaLookup ty s = .raise .engineError u := by simp only [shaLookup, hsess, if_neg hne, hu]
  exact ⟨u, by rw [shaCommand, hlookup]; rfl, hmoved, hbytes, hcount⟩

theorem shaCommand_source_refused (h : ∀ x, s.sha = some x → x.type = ty)
    (hsrc : s.serves src.mt src.addr src.cbSrc = false) :
    ∃ k, shaCommand ty fl src s = .raise k ((xferClear s).setSha none) := by
  obtain ⟨k, hupdate⟩ := shaUpdate_refused (x := xferOf src (shaDest src) (some (shaLen ty)) true)
    (msg := s.sha.elim [] ShaSession.msg) (s := xferClear s) (Nat.le_refl src.cbSrc) hsrc
  refine ⟨k, ?_⟩
  simp only [shaCommand, shaLookup_same h, Res.andThen, hupdate]
  rfl

/-- With a source that is served a command goes on to its close with the message so far. -/
theorem shaCommand_read (h : ∀ x, s.sha = some x → x.type = ty) (hsrc : s.serves src.mt src.addr src.cbSrc = true) :
    shaCommand ty fl src s =
      Res.onRaise (State.setSha · none)
        (shaClose ty fl.eom (s.sha.elim [] ShaSession.msg ++ s.bytesAt src.mt src.addr src.cbSrc) (shaXferRead ty src)
          (xferClear s)) := by
  have hupdate := shaUpdate_served (x := xferOf src (shaDest src) (some (shaLen ty)) true)
    (msg := s.sha.elim [] ShaSession.msg) (s := xferClear s) (Nat.le_refl src.cbSrc) hsrc
  simp only [shaCommand, shaLookup_same h, Res.andThen, hupdate]
  rw [xferClear_bytesAt]
  rfl

/-- The digest fits the budget of the command, so it is written downward from the top of its slot (R64, R176). -/
theorem xferWrite_shaDigest (m : Bytes) (s : State) :
    xferWrite (shaXferRead ty src) (shaDigest ty m) s = xferWriteDown (shaXferRead ty src) (shaDigest ty m) s :=
  xferWrite_reverse s rfl (decide_eq_true (length_shaDigest ty m).le)

theorem shaClose_writes (m : Bytes) (hw : s.MemoryWf) (hslot : 32 * src.ctx + shaLen ty ≤ 4096) :
    ∃ x u, shaClose ty true m (shaXferRead ty src) s = .ok x (u.setSha none) ∧
      Wrote s u ⟨32 * src.ctx, .sb⟩ (shaDigest ty m).reverse := by
  have hlen := length_shaDigest ty m
  have hpos : 0 < shaLen ty := by cases ty <;> decide
  have htop : (shaXferRead ty src).dstAddr = 32 * src.ctx + shaLen ty := rfl
  have hbottom : (shaXferRead ty src).dstAddr - (shaDigest ty m).length = 32 * src.ctx := by omega
  obtain ⟨u, hu, hwrote⟩ := xferWriteDown_wrote (x := shaXferRead ty src) (v := shaDigest ty m) hw (by omega)
    (by rw [hbottom]; exact (State.serves_sb_iff (by omega)).2 (by omega))
  rw [hbottom] at hwrote
  exact ⟨_, u, by rw [shaClose, if_pos rfl, xferWrite_shaDigest, hu]; rfl, hwrote⟩

/-- A digest whose first byte lies past the LSB raises with nothing written (R175). -/
theorem shaClose_refused (m : Bytes) (hslot : 4096 < 32 * src.ctx + shaLen ty) :
    ∃ k, shaClose ty true m (shaXferRead ty src) s = .raise k s := by
  have hne : shaDigest ty m ≠ [] := List.ne_nil_of_length_pos (by rw [length_shaDigest]; cases ty <;> decide)
  have htop : (shaXferRead ty src).dstAddr = 32 * src.ctx + shaLen ty := rfl
  have hfirst : s.serves .sb ((shaXferRead ty src).dstAddr - 1) 1 = false := by
    rw [← Bool.not_eq_true, State.serves_sb_iff (by decide)]
    omega
  exact ⟨_, by rw [shaClose, if_pos rfl, xferWrite_shaDigest, xferWriteDown_refused hne hfirst]; rfl⟩

end Command

/-! ## The instruction -/

theorem exec_of_shaOf {i : Instr} {ty : ShaType} {fl : MsgFlags} {src : Source} (h : shaOf i = some (ty, fl, src)) (s : State) :
    exec i s = retire (shaCommand ty fl src s) := by
  cases i with
  | sha256 fl' src' bits | sha384 fl' src' bits => cases h; rfl
  | _ => cases h

theorem exec_sha_memoryWf {i : Instr} {ty : ShaType} {fl : MsgFlags} {src : Source} {s t : State}
    (h : shaOf i = some (ty, fl, src)) (hw : s.MemoryWf) (ht : exec i s = .next t) : t.MemoryWf :=
  retire_memoryWf (shaCommand_executed ty fl src s) hw ((exec_of_shaOf h s).symm.trans ht)

@[simp] theorem State.setSha_byteAt (s : State) (v : Option ShaSession) (mt : MemType) (a : Nat) :
    (s.setSha v).byteAt mt a = s.byteAt mt a := by
  cases mt <;> rfl

theorem Moved.executed_setSha {s u : State} (h : Moved s u) (v : Option ShaSession) : Executed s (u.setSha v) :=
  h.executed.trans (Machine.executed_setSha u v)

/-- The data at the end of a command that moved data to reach `u` and then made `v` the SHA session. -/
structure EndOfSha (s u : State) (v : Option ShaSession) (t : State) : Prop where
  sha : t.sha = v
  aes : t.aes = s.aes
  zlib : t.zlib = s.zlib
  freeCount : t.freeCount = s.freeCount
  sameBytes : SameBytes u t
  cbWrittenLast : t.cbWrittenLast = u.cbWrittenLast

theorem EndOf.sha {s u t : State} {v : Option ShaSession} (h : EndOf (u.setSha v) t) (hm : Moved s u) : EndOfSha s u v t where
  sha := h.sessions.1
  aes := h.aes.trans hm.aes
  zlib := h.zlib.trans hm.zlib
  freeCount := h.freeCount.trans hm.freeCount
  sameBytes mt a := (h.sameBytes mt a).trans (u.setSha_byteAt v mt a)
  cbWrittenLast := h.cbWrittenLast

section Ends
variable {i : Instr} {ty : ShaType} {fl : MsgFlags} {src : Source} {s u : State}

theorem exec_sha_completes {x : Xfer} {v : Option ShaSession} (hi : shaOf i = some (ty, fl, src))
    (h : shaCommand ty fl src s = .ok x (u.setSha v)) (hm : Moved s u) :
    ∃ t, exec i s = .next t ∧ Succeeded s t ∧ EndOfSha s u v t :=
  ⟨complete (u.setSha v), by rw [exec_of_shaOf hi, h, retire_ok], (hm.executed_setSha v).succeeded_complete,
    (endOf_complete _).sha hm⟩

theorem exec_sha_raises {k : ErrKind} {r : Reply} (hi : shaOf i = some (ty, fl, src)) (hp : s.phase = .draining r)
    (h : shaCommand ty fl src s = .raise k (u.setSha none)) (hm : Moved s u) :
    ∃ t, exec i s = .next t ∧ Failed s t ∧ EndOfSha s u none t :=
  have hu := hm.executed_setSha none
  ⟨takeError k (u.setSha none), by rw [exec_of_shaOf hi, h, retire_raise], hu.failed_takeError k hp,
    (endOf_takeError k (hu.phase.trans hp)).sha hm⟩

end Ends

/-- A command of the session's type that cannot read its source or cannot place its digest raises with nothing written. -/
theorem shaCommand_nothing_written {ty : ShaType} {fl : MsgFlags} {src : Source} {s : State}
    (h : ∀ x, s.sha = some x → x.type = ty)
    (hbad : s.serves src.mt src.addr src.cbSrc = false ∨ fl.eom = true ∧ 4096 < 32 * src.ctx + shaLen ty) :
    ∃ k, shaCommand ty fl src s = .raise k ((xferClear s).setSha none) := by
  cases hsrc : s.serves src.mt src.addr src.cbSrc with
  | false => exact shaCommand_source_refused h hsrc
  | true =>
    obtain ⟨heom, hslot⟩ := hbad.resolve_left (by simp [hsrc])
    obtain ⟨k, hclose⟩ := shaClose_refused (ty := ty) (src := src) (s := xferClear s)
      (s.sha.elim [] ShaSession.msg ++ s.bytesAt src.mt src.addr src.cbSrc) hslot
    exact ⟨k, by rw [shaCommand_read h hsrc, heom, hclose]; rfl⟩

/-! ## The statements -/

/-- Settles O14: the source is read whole, and without `eom` the close only stores the session. -/
theorem shaUpdateAppends : Obligations.ShaUpdateAppends := by
  intro s i ty fl src hi heom hty hsrc
  have hcommand := shaCommand_read (fl := fl) hty hsrc
  rw [heom] at hcommand
  obtain ⟨t, hexec, hsucceeded, hend⟩ := exec_sha_completes hi hcommand (xferClear_moved s)
  exact ⟨t, hexec, hsucceeded, hend.sha, hend.aes, hend.zlib, hend.freeCount,
    (sameBytes_xferClear s).trans hend.sameBytes, hend.cbWrittenLast⟩

/-- Settles O15: the source is read whole, and with `eom` the close is one downward write of the digest. -/
theorem shaFinalWritesReversedDigest : Obligations.ShaFinalWritesReversedDigest := by
  intro s i ty fl src hi hw heom hty hsrc hslot
  obtain ⟨msg, hmsg⟩ : ∃ m, m = s.sha.elim [] ShaSession.msg ++ s.bytesAt src.mt src.addr src.cbSrc := ⟨_, rfl⟩
  obtain ⟨x, u, hclose, hwrote⟩ := shaClose_writes (ty := ty) (src := src) msg ((xferClear_moved s).wf hw) hslot
  have hcommand := shaCommand_read (fl := fl) hty hsrc
  rw [heom, ← hmsg, hclose] at hcommand
  obtain ⟨t, hexec, hsucceeded, hend⟩ := exec_sha_completes hi hcommand ((xferClear_moved s).trans hwrote.moved)
  obtain ⟨hbytes, houtside, -⟩ := hwrote.leaves (List.length_reverse.trans (length_shaDigest ty msg))
  refine ⟨t, hexec, hsucceeded, ?digest, ?outside, hend.sha, hend.aes, hend.zlib, hend.freeCount,
    hend.cbWrittenLast.trans hwrote.count⟩
  case digest => rw [hend.sameBytes.bytesAt, ← hmsg, hbytes]
  case outside => exact fun mt a ha => by rw [hend.sameBytes, houtside mt a ha, xferClear_byteAt]

/-- Settles O17: each failure raises before a byte is written. -/
theorem shaFailuresEmptyTheSession : Obligations.ShaFailuresEmptyTheSession := by
  intro s i ty fl src r hp hi
  refine ⟨fun hother => ?otherType, fun hty hbad => ?nothingWritten⟩
  case otherType =>
    obtain ⟨u, hcommand, hmoved, hbytes, hcount⟩ := shaCommand_otherType (fl := fl) (src := src) hother
    obtain ⟨t, hexec, hfailed, hend⟩ := exec_sha_raises hi hp hcommand hmoved
    exact ⟨t, hexec, hfailed, hend.sha, hend.aes, hend.zlib, hbytes.trans hend.sameBytes,
      hend.cbWrittenLast.trans hcount, hend.freeCount⟩
  case nothingWritten =>
    have hslot (h : fl.eom = true ∧ ty = .sha384 ∧ src.ctx = 127) : fl.eom = true ∧ 4096 < 32 * src.ctx + shaLen ty := by
      obtain ⟨heom, rfl, hctx⟩ := h
      exact ⟨heom, by rw [hctx]; decide⟩
    obtain ⟨k, hcommand⟩ := shaCommand_nothing_written hty (hbad.imp_right hslot)
    obtain ⟨t, hexec, hfailed, hend⟩ := exec_sha_raises hi hp hcommand (xferClear_moved s)
    exact ⟨t, hexec, hfailed, hend.sha, hend.aes, hend.zlib, (sameBytes_xferClear s).trans hend.sameBytes,
      hend.cbWrittenLast, hend.freeCount⟩

/-! ## A message in two commands (R180 (a)) -/

/-- Two states that differ from one state in `n` bytes at `d`, and agree there, agree everywhere. -/
theorem SameOutside.sameBytes {s t u : State} {d : Place} {n : Nat} (ht : SameOutside s t d n) (hu : SameOutside s u d n)
    (h : t.bytesAt d.mt d.addr n = u.bytesAt d.mt d.addr n) : SameBytes t u := by
  intro mt a
  by_cases hin : mt = d.mt ∧ d.addr ≤ a ∧ a < d.addr + n
  · obtain ⟨rfl, hlo, hhi⟩ := hin
    obtain ⟨k, rfl⟩ := Nat.exists_eq_add_of_le hlo
    have hk : k < n := by omega
    rw [← State.bytesAt_getD u d.mt d.addr n k hk, ← h, State.bytesAt_getD t d.mt d.addr n k hk]
  · have hout (hmt : mt = d.mt) : a < d.addr ∨ d.addr + n ≤ a := by
      by_contra hno
      exact hin ⟨hmt, by omega, by omega⟩
    rw [ht mt a hout, hu mt a hout]

/-- The SHA command of a type. -/
def shaInstr (ty : ShaType) (fl : MsgFlags) (src : Source) (bits : Nat) : Instr :=
  match ty with
  | .sha256 => .sha256 fl src bits
  | .sha384 => .sha384 fl src bits

theorem shaOf_shaInstr (ty : ShaType) (fl : MsgFlags) (src : Source) (bits : Nat) :
    shaOf (shaInstr ty fl src bits) = some (ty, fl, src) := by
  cases ty <;> rfl

/-- The two parts run one after the other leave the bytes that the whole leaves, for either digest: the first leaves its bytes
as the session, and the second, whose source it did not touch, completes the message. -/
theorem exec_sha_split {ty : ShaType} {src : Source} {s : State} {a n m : Nat} (bits : Nat) (hw : s.MemoryWf)
    (hnone : s.sha = none) (hsrc : s.serves src.mt a (n + m) = true) (hslot : 32 * src.ctx + shaLen ty ≤ 4096) :
    ∃ t u w,
      exec (shaInstr ty ⟨true, false⟩ { src with addr := a, cbSrc := n } bits) s = .next t ∧
      exec (shaInstr ty ⟨false, true⟩ { src with addr := a + n, cbSrc := m } bits) t = .next u ∧
      exec (shaInstr ty ⟨true, true⟩ { src with addr := a, cbSrc := n + m } bits) s = .next w ∧ SameBytes u w := by
  have hty : ∀ x, s.sha = some x → x.type = ty := fun x hx => by rw [hnone] at hx; cases hx
  obtain ⟨t, ht, ⟨-, ⟨-, hparams, -⟩, -⟩, hsha, -, -, -, hsame, -⟩ :=
    shaUpdateAppends s _ ty _ _ (shaOf_shaInstr ty ⟨true, false⟩ { src with addr := a, cbSrc := n } bits) rfl hty
      (State.serves_mono hsrc (Nat.le_refl a) (Nat.add_le_add_left (Nat.le_add_right n m) a))
  have hty' : ∀ x, t.sha = some x → x.type = ty := fun x hx => by rw [hsha] at hx; cases hx; rfl
  have hrest : t.serves src.mt (a + n) m = true := by
    rw [State.serves_congr hparams]
    exact State.serves_mono hsrc (Nat.le_add_right a n) (Nat.add_assoc a n m).le
  obtain ⟨u, hu, -, hdigest, houtside, -⟩ := shaFinalWritesReversedDigest t _ ty _ _
    (shaOf_shaInstr ty ⟨false, true⟩ { src with addr := a + n, cbSrc := m } bits)
    (exec_sha_memoryWf (shaOf_shaInstr ..) hw ht) rfl hty' hrest hslot
  obtain ⟨w, hwhole, -, hdigest', houtside', -⟩ := shaFinalWritesReversedDigest s _ ty _ _
    (shaOf_shaInstr ty ⟨true, true⟩ { src with addr := a, cbSrc := n + m } bits) hw rfl hty hsrc hslot
  have houtside'' : SameOutside s u ⟨32 * src.ctx, .sb⟩ (shaLen ty) := fun mt b hb =>
    (houtside mt b hb).trans (hsame mt b)
  refine ⟨t, u, w, ht, hu, hwhole, houtside''.sameBytes houtside' (hdigest.trans (Eq.trans ?_ hdigest'.symm))⟩
  rw [hsha, hnone, hsame.bytesAt]
  simp only [Option.elim, List.nil_append, State.bytesAt_append]

/-- Settles O16: `exec_sha_split` at the two digests, of which the one of SHA-256 is the shorter. -/
theorem shaSplitGivesSameDigest : Obligations.ShaSplitGivesSameDigest := by
  intro s src a n m bits hw hnone hsrc hslot
  have hslot256 : 32 * src.ctx + shaLen .sha256 ≤ 4096 := Nat.le_trans (Nat.add_le_add_left (by decide) _) hslot
  exact ⟨exec_sha_split (ty := .sha256) bits hw hnone hsrc hslot256, exec_sha_split (ty := .sha384) bits hw hnone hsrc hslot⟩

end Sys2Proof.Machine
end

section
/-! PROOFS. The block function of AES (49_reference_algorithms.md R315 to R319): every operation of a round of `AES_DEC`
undoes the one of `AES_ENC`, so decryption gives back the block. -/

namespace Sys2Proof.Machine

/-! ## Bytewise exclusive or and pieces -/

/-- A string masked twice with the same key is as before. -/
theorem xorBytes_xorBytes {a k : Bytes} (h : a.length = k.length) : xorBytes (xorBytes a k) k = a := by
  refine List.ext_getElem (by simp [length_xorBytes, h]) fun i _ _ => ?_
  simp [xorBytes]

/-- Cutting a string that was put together from full pieces gives the pieces. -/
theorem pieces_flatten {α : Type} {n : Nat} {l : List (List α)} (h : ∀ p ∈ l, p.length = n) :
    pieces n l.length l.flatten = l := by
  induction l with
  | nil => rfl
  | cons p t ih =>
    obtain ⟨hp, ht⟩ := List.forall_mem_cons.1 h
    subst hp
    rw [List.length_cons, pieces, List.flatten_cons, List.take_left, List.drop_left, ih ht]

/-- Pieces put together again are the string. -/
theorem flatten_pieces {α : Type} {n k : Nat} {l : List α} (h : l.length = n * k) : (pieces n k l).flatten = l := by
  induction k generalizing l with
  | zero => exact (List.length_eq_zero_iff.1 h).symm
  | succ k ih =>
    rw [Nat.mul_succ] at h
    rw [pieces, List.flatten_cons, ih (by rw [List.length_drop]; omega), List.take_append_drop]

/-! ## The substitution (R316) -/

theorem invSbox_sbox : ∀ x : Byte, invSbox (sbox x) = x := by decide

theorem invSubBytes_subBytes (s : Bytes) : invSubBytes (subBytes s) = s := by
  rw [invSubBytes, subBytes, List.map_map]
  exact (List.map_congr_left fun x _ => invSbox_sbox x).trans (List.map_id s)

/-! ## The rows (R318, R319) -/

/-- The byte that `shiftRows` moves to place `i`. -/
def shiftedFrom (i : Nat) : Nat := 4 * ((i / 4 + i % 4) % 4) + i % 4

/-- The byte that `invShiftRows` moves to place `i`. -/
def shiftedBackFrom (i : Nat) : Nat := 4 * ((i / 4 + 4 - i % 4) % 4) + i % 4

theorem shiftedBackFrom_lt (i : Nat) : shiftedBackFrom i < 16 := by unfold shiftedBackFrom; omega

theorem shiftedFrom_shiftedBackFrom {i : Nat} (h : i < 16) : shiftedFrom (shiftedBackFrom i) = i := by
  unfold shiftedFrom shiftedBackFrom
  omega

theorem shiftRows_getD (s : Bytes) {i : Nat} (h : i < 16) : (shiftRows s).getD i 0 = s.getD (shiftedFrom i) 0 := by
  simp [shiftRows, shiftedFrom, h]

theorem invShiftRows_getD (s : Bytes) {i : Nat} (h : i < 16) :
    (invShiftRows s).getD i 0 = s.getD (shiftedBackFrom i) 0 := by
  simp [invShiftRows, shiftedBackFrom, h]

theorem length_invShiftRows (s : Bytes) : (invShiftRows s).length = 16 := rfl

theorem invShiftRows_shiftRows {s : Bytes} (h : s.length = 16) : invShiftRows (shiftRows s) = s := by
  refine bytes_ext h.symm fun i hi => ?_
  rw [length_invShiftRows] at hi
  rw [invShiftRows_getD _ hi, shiftRows_getD s (shiftedBackFrom_lt i), shiftedFrom_shiftedBackFrom hi]

theorem length_subBytes (s : Bytes) : (subBytes s).length = s.length := List.length_map _

theorem length_invSubBytes (s : Bytes) : (invSubBytes s).length = s.length := List.length_map _

/-- The substitution and the rows of a round, undone. -/
theorem invSubBytes_invShiftRows_cancel {s : Bytes} (h : s.length = 16) :
    invSubBytes (invShiftRows (shiftRows (subBytes s))) = s := by
  rw [invShiftRows_shiftRows ((length_subBytes s).trans h), invSubBytes_subBytes]

/-! ## The columns (R315, R318, R319) -/

theorem xor_left_comm_byte (a b c : Byte) : a ^^^ (b ^^^ c) = b ^^^ (a ^^^ c) := by ac_rfl

theorem xtime_xor (a b : Byte) : xtime (a ^^^ b) = xtime a ^^^ xtime b := by
  have hpoly (p q : Bool) :
      (if (p ^^ q) then (0x1B : Byte) else 0) = (if p then 0x1B else 0) ^^^ (if q then 0x1B else 0) := by
    cases p <;> cases q <;> rfl
  unfold xtime
  rw [BitVec.shiftLeft_xor_distrib, BitVec.getLsbD_xor, hpoly]
  ac_rfl

theorem gmul_xor (fuel k : Nat) (a b : Byte) : gmul fuel k (a ^^^ b) = gmul fuel k a ^^^ gmul fuel k b := by
  induction fuel generalizing k a b with
  | zero => exact (BitVec.xor_self (x := (0 : Byte))).symm
  | succ n ih =>
    simp only [gmul, xtime_xor, ih]
    split
    · ac_rfl
    · simp

theorem gfMul_xor (k : Nat) (a b : Byte) : gfMul k (a ^^^ b) = gfMul k a ^^^ gfMul k b := gmul_xor 4 k a b

/-- One byte of a mixed column: the bytes of the column from its own place on, times the first row of the matrix. -/
def mixRow (k0 k1 k2 k3 : Nat) (a b c d : Byte) : Byte := gfMul k0 a ^^^ gfMul k1 b ^^^ gfMul k2 c ^^^ gfMul k3 d

/-- The matrix is circulant: every row is the first one turned. -/
theorem mixColumn_eq (k0 k1 k2 k3 : Nat) (a b c d : Byte) :
    mixColumn k0 k1 k2 k3 [a, b, c, d] =
      [mixRow k0 k1 k2 k3 a b c d, mixRow k0 k1 k2 k3 b c d a, mixRow k0 k1 k2 k3 c d a b, mixRow k0 k1 k2 k3 d a b c] := by
  simp only [mixColumn, mixRow, List.getD_cons_zero, List.getD_cons_succ, List.cons.injEq, and_true, true_and]
  refine ⟨?_, ?_, ?_⟩ <;> ac_rfl

/-- The first row of the inverse matrix times the columns of the matrix is `1 0 0 0`, already over the polynomials in
`xtime`. -/
theorem mixRow_products (a : Byte) :
    (gfMul 14 (gfMul 2 a) ^^^ gfMul 11 (gfMul 1 a) ^^^ gfMul 13 (gfMul 1 a) ^^^ gfMul 9 (gfMul 3 a) = a ∧
      gfMul 14 (gfMul 3 a) ^^^ gfMul 11 (gfMul 2 a) ^^^ gfMul 13 (gfMul 1 a) ^^^ gfMul 9 (gfMul 1 a) = 0) ∧
    gfMul 14 (gfMul 1 a) ^^^ gfMul 11 (gfMul 3 a) ^^^ gfMul 13 (gfMul 2 a) ^^^ gfMul 9 (gfMul 1 a) = 0 ∧
      gfMul 14 (gfMul 1 a) ^^^ gfMul 11 (gfMul 1 a) ^^^ gfMul 13 (gfMul 3 a) ^^^ gfMul 9 (gfMul 2 a) = 0 := by
  refine ⟨⟨?_, ?_⟩, ?_, ?_⟩ <;>
    simp [gfMul, gmul, xtime_xor, BitVec.xor_assoc, BitVec.xor_comm, xor_left_comm_byte]

theorem mixRow_mixRow (a b c d : Byte) :
    mixRow 14 11 13 9 (mixRow 2 3 1 1 a b c d) (mixRow 2 3 1 1 b c d a) (mixRow 2 3 1 1 c d a b) (mixRow 2 3 1 1 d a b c) =
      a := by
  obtain ⟨⟨ha, -⟩, -⟩ := mixRow_products a
  obtain ⟨⟨-, hb⟩, -⟩ := mixRow_products b
  obtain ⟨-, hc, -⟩ := mixRow_products c
  obtain ⟨-, -, hd⟩ := mixRow_products d
  calc _ = (gfMul 14 (gfMul 2 a) ^^^ gfMul 11 (gfMul 1 a) ^^^ gfMul 13 (gfMul 1 a) ^^^ gfMul 9 (gfMul 3 a)) ^^^
        (gfMul 14 (gfMul 3 b) ^^^ gfMul 11 (gfMul 2 b) ^^^ gfMul 13 (gfMul 1 b) ^^^ gfMul 9 (gfMul 1 b)) ^^^
        (gfMul 14 (gfMul 1 c) ^^^ gfMul 11 (gfMul 3 c) ^^^ gfMul 13 (gfMul 2 c) ^^^ gfMul 9 (gfMul 1 c)) ^^^
        (gfMul 14 (gfMul 1 d) ^^^ gfMul 11 (gfMul 1 d) ^^^ gfMul 13 (gfMul 3 d) ^^^ gfMul 9 (gfMul 2 d)) := by
          simp only [mixRow, gfMul_xor]
          ac_rfl
    _ = a := by rw [ha, hb, hc, hd]; simp

theorem mixColumn_mixColumn {a : Bytes} (h : a.length = 4) : mixColumn 14 11 13 9 (mixColumn 2 3 1 1 a) = a := by
  obtain ⟨a0, a1, a2, a3, rfl⟩ := List.length_eq_four.1 h
  simp only [mixColumn_eq, mixRow_mixRow]

theorem length_mixColumn (k0 k1 k2 k3 : Nat) (a : Bytes) : (mixColumn k0 k1 k2 k3 a).length = 4 := rfl

theorem invMixColumns_mixColumns {s : Bytes} (h : s.length = 16) : invMixColumns (mixColumns s) = s := by
  have hmixed : ∀ c ∈ (pieces 4 4 s).map (mixColumn 2 3 1 1), c.length = 4 := by
    intro c hc
    obtain ⟨a, -, rfl⟩ := List.mem_map.1 hc
    exact length_mixColumn 2 3 1 1 a
  have hcut := pieces_flatten hmixed
  rw [List.length_map, length_pieces] at hcut
  have hundone : ∀ c ∈ pieces 4 4 s, mixColumn 14 11 13 9 (mixColumn 2 3 1 1 c) = c := fun c hc =>
    mixColumn_mixColumn (mem_pieces h.ge hc).1
  calc invMixColumns (mixColumns s)
      = (((pieces 4 4 s).map (mixColumn 2 3 1 1)).map (mixColumn 14 11 13 9)).flatten := by
        rw [invMixColumns, mixColumns, List.flatMap_def, List.flatMap_def, hcut]
    _ = (pieces 4 4 s).flatten := by
        rw [List.map_map]
        exact congrArg List.flatten ((List.map_congr_left hundone).trans (List.map_id _))
    _ = s := flatten_pieces h

/-! ## The rounds (R318, R319) -/

/-- `AES_DEC` by its round keys, the last one first. -/
def decWith : List Bytes → Bytes → Bytes
  | [], b => b
  | k :: ks, b => decRounds ks (xorBytes b k)

theorem aesDec_eq (key b : Bytes) : aesDec key b = decWith (roundKeys key).reverse b := by
  unfold aesDec
  cases (roundKeys key).reverse <;> rfl

/-- The rounds of `AES_DEC` with the keys `ks` undo the rounds of `AES_ENC`, up to the substitution and the rows of the
first. -/
theorem decWith_encRounds {k : Bytes} {ks : List Bytes} (hks : ∀ x ∈ k :: ks, x.length = 16) {r : List Bytes} (hr : r ≠ [])
    {s : Bytes} (hs : s.length = 16) :
    decWith ((k :: ks).reverse ++ r) (encRounds (k :: ks) s) = decRounds r (shiftRows (subBytes s)) := by
  induction ks generalizing k r s with
  | nil =>
    obtain ⟨hk, -⟩ := List.forall_mem_cons.1 hks
    rw [encRounds, List.reverse_singleton, List.singleton_append, decWith, xorBytes_xorBytes (by rw [length_shiftRows, hk])]
  | cons k' ks ih =>
    obtain ⟨hk, hks'⟩ := List.forall_mem_cons.1 hks
    obtain ⟨k0, r, rfl⟩ := List.exists_cons_of_ne_nil hr
    have hmixed : (mixColumns (shiftRows (subBytes s))).length = k.length := by rw [length_mixColumns, hk]
    have hnext : (xorBytes (mixColumns (shiftRows (subBytes s))) k).length = 16 := by
      rw [length_xorBytes, hmixed, hk, Nat.min_self]
    rw [encRounds, List.reverse_cons, List.append_assoc, List.singleton_append,
      ih hks' (List.cons_ne_nil k _) hnext, decRounds, invSubBytes_invShiftRows_cancel hnext, xorBytes_xorBytes hmixed,
      invMixColumns_mixColumns (length_shiftRows _)]

/-- `AES_DEC` inverts `AES_ENC` under any key of at least one word. -/
theorem aesDec_aesEnc {key b : Bytes} (hk : 4 ≤ key.length) (hb : b.length = 16) : aesDec key (aesEnc key b) = b := by
  have hkeys := length_mem_roundKeys hk
  rw [aesDec_eq]
  unfold aesEnc
  cases hround : roundKeys key with
  | nil => rfl
  | cons k ks =>
    obtain ⟨h0, hks⟩ := List.forall_mem_cons.1 (hround ▸ hkeys)
    have hmask : b.length = k.length := hb.trans h0.symm
    have hfirst : (xorBytes b k).length = 16 := by rw [length_xorBytes, hmask, h0, Nat.min_self]
    cases ks with
    | nil => exact xorBytes_xorBytes hmask
    | cons k' ks =>
      dsimp only
      rw [List.reverse_cons, decWith_encRounds hks (List.cons_ne_nil k []) hfirst, decRounds,
        invSubBytes_invShiftRows_cancel hfirst, xorBytes_xorBytes hmask]

theorem length_decRounds {ks : List Bytes} (hks : ∀ k ∈ ks, k.length = 16) {s : Bytes} (hs : s.length = 16) :
    (decRounds ks s).length = 16 := by
  induction ks generalizing s with
  | nil => exact hs
  | cons k t ih =>
    obtain ⟨hk, ht⟩ := List.forall_mem_cons.1 hks
    cases t with
    | nil => rw [decRounds, length_xorBytes, length_invSubBytes, length_invShiftRows, hk, Nat.min_self]
    | cons k' t => exact ih ht (s := invMixColumns _) rfl

theorem length_aesDec {key b : Bytes} (hk : 4 ≤ key.length) (hb : b.length = 16) : (aesDec key b).length = 16 := by
  have hkeys : ∀ k ∈ (roundKeys key).reverse, k.length = 16 := fun k h => length_mem_roundKeys hk k (List.mem_reverse.1 h)
  rw [aesDec_eq]
  cases hround : (roundKeys key).reverse with
  | nil => exact hb
  | cons k ks =>
    obtain ⟨h0, hks⟩ := List.forall_mem_cons.1 (hround ▸ hkeys)
    exact length_decRounds hks (by rw [length_xorBytes, hb, h0, Nat.min_self])

end Sys2Proof.Machine
end

section
/-! PROOFS. The two modes of AES (43_aes.md R190, R191): blocks one after the other, and pieces of input. -/

namespace Sys2Proof.Machine

theorem aesBlocks_cons (a : AesSession) (b : Bytes) (bs : List Bytes) :
    aesBlocks a (b :: bs) =
      ((aesBlock a b).1 ++ (aesBlocks { a with chain := (aesBlock a b).2 } bs).1,
        (aesBlocks { a with chain := (aesBlock a b).2 } bs).2) :=
  rfl

theorem length_aesBlock {a : AesSession} {b : Bytes} (hk : 4 ≤ a.key.length) (hc : a.chain.length = 16)
    (hb : b.length = 16) : (aesBlock a b).1.length = 16 := by
  unfold aesBlock
  split <;> dsimp only
  · exact length_aesEnc hk hb
  · exact length_aesDec hk hb
  · exact length_aesEnc hk (by rw [length_xorBytes, hb, hc, Nat.min_self])
  · rw [length_xorBytes, length_aesDec hk hb, hc, Nat.min_self]

/-! ## Decryption of an encrypted message (R194, property 6) -/

/-- The same session in the two directions: a block decrypts to what was encrypted, and the chaining values agree. -/
theorem aesBlock_dec_enc {a : AesSession} {b : Bytes} (hk : 4 ≤ a.key.length) (hc : a.chain.length = 16)
    (hb : b.length = 16) :
    aesBlock { a with dir := .dec } (aesBlock { a with dir := .enc } b).1 = (b, (aesBlock { a with dir := .enc } b).2) := by
  cases a.mode with
  | ecb => simp only [aesBlock, aesDec_aesEnc hk hb]
  | cbc =>
    have hmask : b.length = a.chain.length := hb.trans hc.symm
    have hmasked : (xorBytes b a.chain).length = 16 := by rw [length_xorBytes, hmask, hc, Nat.min_self]
    simp only [aesBlock, aesDec_aesEnc hk hmasked, xorBytes_xorBytes hmask]

/-- The cipher text, cut into blocks again, decrypts block by block. -/
theorem aesBlocks_dec_enc {a : AesSession} {bs : List Bytes} (hk : 4 ≤ a.key.length) (hc : a.chain.length = 16)
    (hbs : ∀ b ∈ bs, b.length = 16) :
    (aesBlocks { a with dir := .dec } (pieces 16 bs.length (aesBlocks { a with dir := .enc } bs).1)).1 = bs.flatten := by
  induction bs generalizing a with
  | nil => rfl
  | cons b t ih =>
    obtain ⟨hb, ht⟩ := List.forall_mem_cons.1 hbs
    have hcipher : (aesBlock { a with dir := .enc } b).1.length = 16 := length_aesBlock hk hc hb
    have hrest := ih (a := { a with chain := (aesBlock { a with dir := .enc } b).2 }) hk (length_aesBlock_chain hk hc hb) ht
    rw [List.length_cons, aesBlocks_cons, pieces, List.take_left' hcipher, List.drop_left' hcipher, aesBlocks_cons,
      aesBlock_dec_enc hk hc hb, List.flatten_cons, ← hrest]

/-- Settles O22: the blocks of a well-formed session, one after the other. -/
theorem aesModesInvert : Obligations.AesModesInvert := by
  intro a blocks h hblocks
  obtain ⟨hkey, hchain, -⟩ := h
  exact aesBlocks_dec_enc (by omega) hchain hblocks

end Sys2Proof.Machine
end

section
/-! PROOFS. The feeding of an AES session (43_aes.md R190): whole blocks are processed and the rest stays pending, so
feeding a message piece by piece is feeding it at once. -/

namespace Sys2Proof.Machine

/-! ## Pieces of a longer string -/

theorem pieces_add {α : Type} (n j k : Nat) (l : List α) :
    pieces n (j + k) l = pieces n j l ++ pieces n k (l.drop (n * j)) := by
  induction j generalizing l with
  | zero => rw [Nat.zero_add, Nat.mul_zero, List.drop_zero]; rfl
  | succ j ih =>
    rw [Nat.succ_add, pieces, pieces, ih, List.drop_drop, List.cons_append, Nat.mul_succ, Nat.add_comm n]

theorem pieces_append {α : Type} {n k : Nat} {l : List α} (h : n * k ≤ l.length) (m : List α) :
    pieces n k (l ++ m) = pieces n k l := by
  induction k generalizing l with
  | zero => rfl
  | succ k ih =>
    rw [Nat.mul_succ] at h
    rw [pieces, pieces, List.take_append_of_le_length (by omega), List.drop_append_of_le_length (by omega),
      ih (by rw [List.length_drop]; omega)]

/-! ## Blocks -/

theorem aesBlocks_append {a c : AesSession} {u : List Bytes} {w : Bytes} (h : aesBlocks a u = (w, c)) (v : List Bytes) :
    aesBlocks a (u ++ v) = (w ++ (aesBlocks c v).1, (aesBlocks c v).2) := by
  induction u generalizing a w with
  | nil => cases h; rfl
  | cons b u ih =>
    rw [aesBlocks_cons] at h
    obtain ⟨rfl, hrest⟩ := Prod.mk.inj h
    rw [List.cons_append, aesBlocks_cons, ih (Prod.ext rfl hrest), List.append_assoc]

/-- The pending bytes play no part in the processing of blocks. -/
theorem aesBlocks_pend (a : AesSession) (p : Bytes) (bs : List Bytes) :
    aesBlocks { a with pend := p } bs = ((aesBlocks a bs).1, { (aesBlocks a bs).2 with pend := p }) := by
  induction bs generalizing a with
  | nil => rfl
  | cons b t ih =>
    have hblock : aesBlock { a with pend := p } b = aesBlock a b := rfl
    rw [aesBlocks_cons, hblock, ih { a with chain := (aesBlock a b).2 }, aesBlocks_cons]

theorem length_aesBlocks {a : AesSession} {bs : List Bytes} (hk : 4 ≤ a.key.length) (hc : a.chain.length = 16)
    (hbs : ∀ b ∈ bs, b.length = 16) : (aesBlocks a bs).1.length = 16 * bs.length := by
  induction bs generalizing a with
  | nil => rfl
  | cons b t ih =>
    obtain ⟨hb, ht⟩ := List.forall_mem_cons.1 hbs
    have hrest := ih (a := { a with chain := (aesBlock a b).2 }) hk (length_aesBlock_chain hk hc hb) ht
    rw [aesBlocks_cons, List.length_append, length_aesBlock hk hc hb, hrest, List.length_cons, Nat.mul_succ, Nat.add_comm]

/-! ## Pieces of input -/

theorem aesFeed_eq (a : AesSession) (v : Bytes) {k : Nat} (hk : k = (a.pend ++ v).length / 16) :
    aesFeed a v =
      ((aesBlocks a (pieces 16 k (a.pend ++ v))).1,
        { (aesBlocks a (pieces 16 k (a.pend ++ v))).2 with pend := (a.pend ++ v).drop (16 * k) }) := by
  subst hk
  rfl

theorem aesFeed_nil {a : AesSession} (h : a.Wf) : aesFeed a [] = ([], a) := by
  obtain ⟨-, -, hpend⟩ := h
  rw [aesFeed_eq a [] (k := 0) (by rw [List.append_nil]; omega), List.append_nil]
  rfl

/-- Feeding two strings one after the other is feeding them at once. -/
theorem aesFeed_append {a b : AesSession} {u w : Bytes} (h : aesFeed a u = (w, b)) (v : Bytes) :
    aesFeed a (u ++ v) = (w ++ (aesFeed b v).1, (aesFeed b v).2) := by
  obtain ⟨buf, hbuf⟩ : ∃ x, x = a.pend ++ u := ⟨_, rfl⟩
  obtain ⟨k, hk⟩ : ∃ k, k = buf.length / 16 := ⟨_, rfl⟩
  obtain ⟨⟨x, c⟩, hblocks⟩ : ∃ o, aesBlocks a (pieces 16 k buf) = o := ⟨_, rfl⟩
  have hle : 16 * k ≤ buf.length := by omega
  rw [aesFeed_eq a u (k := k) (hbuf ▸ hk), ← hbuf, hblocks] at h
  obtain ⟨rfl, rfl⟩ := Prod.mk.inj h
  obtain ⟨j, hj⟩ : ∃ j, j = (buf.drop (16 * k) ++ v).length / 16 := ⟨_, rfl⟩
  have hboth : a.pend ++ (u ++ v) = buf ++ v := by rw [hbuf, List.append_assoc]
  have htotal : k + j = (a.pend ++ (u ++ v)).length / 16 := by
    rw [List.length_append, List.length_drop] at hj
    rw [hboth, List.length_append]
    omega
  have hdrop : (buf ++ v).drop (16 * k) = buf.drop (16 * k) ++ v := List.drop_append_of_le_length hle
  have hpieces : pieces 16 (k + j) (buf ++ v) = pieces 16 k buf ++ pieces 16 j (buf.drop (16 * k) ++ v) := by
    rw [pieces_add, pieces_append hle, hdrop]
  rw [aesFeed_eq a (u ++ v) htotal, aesFeed_eq _ v (k := j) hj, hboth, hpieces, aesBlocks_append hblocks,
    aesBlocks_pend c (buf.drop (16 * k)), Nat.mul_add, ← List.drop_drop, hdrop]

/-- What a piece of input leaves: the output is the whole blocks, the rest is pending. -/
theorem aesFeed_shape {a b : AesSession} {v w : Bytes} (h : a.Wf) (hfeed : aesFeed a v = (w, b)) :
    b.Wf ∧ w.length = 16 * ((a.pend.length + v.length) / 16) ∧ b.pend.length = (a.pend.length + v.length) % 16 := by
  have hwf := aesFeed_wf h v
  obtain ⟨hkey, hchain, -⟩ := h
  have hblocks : ∀ p ∈ pieces 16 ((a.pend ++ v).length / 16) (a.pend ++ v), p.length = 16 := fun p hp =>
    (mem_pieces (by omega) hp).1
  rw [hfeed] at hwf
  rw [aesFeed_eq a v rfl] at hfeed
  obtain ⟨rfl, rfl⟩ := Prod.mk.inj hfeed
  refine ⟨hwf, ?_, ?_⟩
  · rw [length_aesBlocks (by omega) hchain hblocks, length_pieces, List.length_append]
  · simp only [List.length_drop, List.length_append]
    omega

end Sys2Proof.Machine
end

section
/-! PROOFS. The AES loop (43_aes.md R190): the source is read in pieces of 512 bytes, and what each outputs is written
before the next is read. -/

namespace Sys2Proof.Machine

/-! ## Writes of what may be no byte (20_memory.md R58) -/

theorem xferWriteSome_wrote {x : Xfer} {v : Bytes} {s : State} (hw : s.MemoryWf) (hr : x.reverse = false)
    (hf : x.fits v.length = true) (h : s.serves x.dstMt x.dstAddr v.length = true) :
    ∃ t, xferWriteSome x v s = .ok { x with dstAddr := x.dstAddr + v.length, wrLeft := x.spend v.length } t ∧
      Wrote s t ⟨x.dstAddr, x.dstMt⟩ v := by
  by_cases hv : v = []
  · subst hv
    exact ⟨s, by simp [xferWriteSome, Xfer.spend], .nil s _⟩
  · rw [xferWriteSome, if_neg hv]
    exact xferWrite_wrote hw hr hv hf h

theorem xferWriteSome_of_not_serves {x : Xfer} {v : Bytes} {s : State} (hr : x.reverse = false)
    (hf : x.fits v.length = true) (h : s.serves x.dstMt x.dstAddr v.length = false) :
    xferWriteSome x v s = .raise (refusalKind x.dstMt x.dstAddr v.length) s := by
  have hv : v ≠ [] := by rintro rfl; cases h
  rw [xferWriteSome, if_neg hv]
  exact xferWrite_of_not_serves hr hv hf h

/-! ## What the loop does -/

/-- From `s` to `t` the session `a` was fed with `src`, became `b`, and its output `v` was written at `dst`. -/
structure Fed (a : AesSession) (src : Source) (dst : Place) (s : State) (v : Bytes) (b : AesSession) (t : State) : Prop where
  wf : b.Wf
  pend : b.pend.length = (a.pend.length + src.cbSrc) % 16
  length : v.length = aesOutLen a src
  wrote : Wrote s t dst v
  feeds : sourceStable 512 src dst (aesOutLen a src) → aesFeed a (s.bytesAt src.mt src.addr src.cbSrc) = (v, b)

theorem Fed.nil {a : AesSession} {src : Source} (h : a.Wf) (hnone : src.cbSrc = 0) (dst : Place) (s : State) :
    Fed a src dst s [] a s := by
  have hpend : a.pend.length < 16 := h.2.2
  refine ⟨h, by omega, ?_, .nil s dst, fun _ => ?_⟩
  · rw [aesOutLen, List.length_nil]
    omega
  · rw [hnone]
    exact aesFeed_nil h

/-- The output of a source is that of its first piece and then that of the rest. -/
theorem aesOutLen_past {a c : AesSession} {k p : Nat} (hc : c.pend.length = (a.pend.length + k) % 16) (hkp : k ≤ p)
    (src : Source) :
    aesOutLen a { src with cbSrc := p } =
      aesOutLen a { src with cbSrc := k } + aesOutLen c { src.past k with cbSrc := p - k } := by
  simp only [aesOutLen, hc]
  omega

section Piece
variable {a c : AesSession} {src : Source} {dst : Place} {s : State} {k : Nat} {w : Bytes} (h : a.Wf)
  (hk : k = min 512 src.cbSrc) (hfeed : aesFeed a (s.bytesAt src.mt src.addr k) = (w, c))

include h hfeed

/-- The output and the pending bytes of a piece of `k` bytes. -/
theorem aesFeed_piece :
    c.Wf ∧ w.length = aesOutLen a { src with cbSrc := k } ∧ c.pend.length = (a.pend.length + k) % 16 := by
  have hshape := aesFeed_shape h hfeed
  rwa [State.bytesAt_length] at hshape

include hk

/-- A source that is read as it stood is read so past its first piece: a piece with another after it outputs as many bytes
as it reads. -/
theorem sourceStable_past_piece (hstable : sourceStable 512 src dst (aesOutLen a src)) :
    sourceStable 512 (src.past k) (dst.past w.length) (aesOutLen c (src.past k)) ∧
      ∀ x, src.addr + k ≤ x → x < src.addr + src.cbSrc → src.mt = dst.mt → x < dst.addr ∨ dst.addr + w.length ≤ x := by
  obtain ⟨-, hlen, hpend⟩ := aesFeed_piece h hfeed
  have hlt : a.pend.length < 16 := h.2.2
  have hfull : 512 < src.cbSrc → w.length = 512 ∧ k = 512 := by
    intro hmore
    obtain rfl : k = 512 := by omega
    have hwhole : w.length = 16 * ((a.pend.length + 512) / 16) := hlen
    omega
  have hout : aesOutLen a src = w.length + aesOutLen c (src.past k) :=
    hlen ▸ aesOutLen_past hpend (show k ≤ src.cbSrc by omega) src
  generalize aesOutLen c (src.past k) = o at hout ⊢
  simp only [sourceStable, sourceDisjoint, Source.past, Place.past, Bool.or_eq_true, bne_iff_ne,
    decide_eq_true_eq] at hstable ⊢
  by_cases hlast : src.cbSrc ≤ 512
  · exact ⟨.inl (by omega), fun x _ _ _ => by omega⟩
  obtain ⟨hw, rfl⟩ := hfull (by omega)
  rcases hstable with hone | (hmt | hapart) | ⟨hmt, hle⟩
  · exact absurd hone hlast
  · exact ⟨.inr (.inl (.inl hmt)), fun x _ _ he => absurd he hmt⟩
  · exact ⟨.inr (.inl (.inr (decide_eq_true (by omega)))), fun x _ _ _ => by omega⟩
  · exact ⟨.inr (.inr ⟨hmt, by omega⟩), fun x _ _ _ => by omega⟩

/-- A first piece and then the rest. -/
theorem Fed.piece {b : AesSession} {t u : State} {v : Bytes} (hpiece : Wrote s t dst w)
    (hrest : Fed c (src.past k) (dst.past w.length) t v b u) : Fed a src dst s (w ++ v) b u := by
  obtain ⟨-, hlen, hpend⟩ := aesFeed_piece h hfeed
  have hleft : (src.past k).cbSrc = src.cbSrc - k := rfl
  refine ⟨hrest.wf, ?pend, ?length, hpiece.above hrest.wrote, fun hstable => ?feeds⟩
  case pend =>
    rw [hrest.pend, hpend]
    omega
  case length =>
    rw [List.length_append, hrest.length, hlen]
    exact (aesOutLen_past hpend (by omega) src).symm
  case feeds =>
    obtain ⟨hstable', hunread⟩ := sourceStable_past_piece h hk hfeed hstable
    have hend : src.addr + k + (src.cbSrc - k) = src.addr + src.cbSrc := by omega
    have hunchanged : t.bytesAt src.mt (src.addr + k) (src.cbSrc - k) = s.bytesAt src.mt (src.addr + k) (src.cbSrc - k) :=
      State.bytesAt_congr fun x hlo hhi => hpiece.sameOutside src.mt x fun hmt => hunread x hlo (hhi.trans_eq hend) hmt
    have hlater : aesFeed c (s.bytesAt src.mt (src.addr + k) (src.cbSrc - k)) = (v, b) :=
      hunchanged ▸ hrest.feeds hstable'
    have hcut : src.cbSrc = k + (src.cbSrc - k) := by omega
    rw [hcut, State.bytesAt_append, aesFeed_append hfeed, hlater]

end Piece

/-! ## The loop -/

/-- The transfer context of an AES command: the session's pending bytes count towards what it may write (R190). -/
abbrev aesXfer (a : AesSession) (src : Source) (dst : Place) : Xfer :=
  xferOf src dst (some (src.cbSrc + a.pend.length)) false

theorem aesLoop_done {fuel : Nat} {a : AesSession} {src : Source} {dst : Place} {s : State} (h : src.cbSrc = 0) :
    aesLoop fuel a (aesXfer a src dst) s = .ok (a, aesXfer a src dst) s := by
  cases fuel with
  | zero => rfl
  | succ n => exact if_pos h

section Turn
variable {fuel : Nat} {a c : AesSession} {src : Source} {dst : Place} {s : State} {k : Nat} {w : Bytes}
  (hsome : src.cbSrc ≠ 0) (hk : k = min 512 src.cbSrc)
include hsome hk

theorem aesLoop_turn :
    aesLoop (fuel + 1) a (aesXfer a src dst) s =
      (Res.ofRead s (xferRead (aesXfer a src dst) k s)).andThen fun p s1 =>
        (xferWriteSome p.2 (aesFeed a p.1).1 s1).andThen fun x2 s2 => aesLoop fuel (aesFeed a p.1).2 x2 s2 := by
  subst hk
  exact if_neg hsome

/-- A turn of the loop with a source that is served. -/
theorem aesLoop_read (hfeed : aesFeed a (s.bytesAt src.mt src.addr k) = (w, c)) (hsrc : s.serves src.mt src.addr k = true) :
    aesLoop (fuel + 1) a (aesXfer a src dst) s =
      (xferWriteSome ((aesXfer a src dst).advanced k) w s).andThen fun x t => aesLoop fuel c x t := by
  have hread : xferRead (aesXfer a src dst) k s = .ok (s.bytesAt src.mt src.addr k, (aesXfer a src dst).advanced k) :=
    xferRead_of_serves (by omega) (show k ≤ src.cbSrc by omega) hsrc
  rw [aesLoop_turn hsome hk, hread]
  simp only [Res.ofRead, Res.andThen, hfeed]

/-- A turn of the loop with a piece that is served at its source, and its output at the destination. -/
theorem aesLoop_piece (h : a.Wf) (hfeed : aesFeed a (s.bytesAt src.mt src.addr k) = (w, c)) (hw : s.MemoryWf)
    (hsrc : s.serves src.mt src.addr k = true)
    (hdst : s.serves dst.mt dst.addr (aesOutLen a { src with cbSrc := k }) = true) :
    ∃ t, aesLoop (fuel + 1) a (aesXfer a src dst) s = aesLoop fuel c (aesXfer c (src.past k) (dst.past w.length)) t ∧
      Wrote s t dst w := by
  obtain ⟨-, hlen, hpend⟩ := aesFeed_piece h hfeed
  have hout : w.length = 16 * ((a.pend.length + k) / 16) := hlen
  have hbudget : src.cbSrc + a.pend.length - w.length = src.cbSrc - k + c.pend.length := by omega
  obtain ⟨t, hwrite, hst⟩ := xferWriteSome_wrote (x := (aesXfer a src dst).advanced k) (v := w) hw rfl
    (decide_eq_true (show w.length ≤ src.cbSrc + a.pend.length by omega)) (by rw [hlen]; exact hdst)
  refine ⟨t, ?_, hst⟩
  rw [aesLoop_read hsome hk hfeed hsrc, hwrite]
  simp only [Res.andThen, Xfer.spend, Xfer.advanced, xferOf, Source.past, Place.past, Option.map_some, hbudget,
    Bool.false_eq_true, if_false]

/-- A piece that the gateway refuses, at its source or for its output, raises with nothing written. -/
theorem aesLoop_refused (h : a.Wf)
    (hrefused : s.serves src.mt src.addr k = false ∨
      s.serves dst.mt dst.addr (aesOutLen a { src with cbSrc := k }) = false) :
    ∃ e, aesLoop (fuel + 1) a (aesXfer a src dst) s = .raise e s := by
  cases hsrc : s.serves src.mt src.addr k with
  | false =>
    have hread := xferRead_of_not_serves (x := aesXfer a src dst) (by omega) (show k ≤ src.cbSrc by omega) hsrc
    exact ⟨_, by rw [aesLoop_turn hsome hk, hread]; rfl⟩
  | true =>
    obtain ⟨⟨w, c⟩, hfeed⟩ : ∃ o, aesFeed a (s.bytesAt src.mt src.addr k) = o := ⟨_, rfl⟩
    obtain ⟨-, hlen, -⟩ := aesFeed_piece h hfeed
    have hout : w.length = 16 * ((a.pend.length + k) / 16) := hlen
    have hwrite := xferWriteSome_of_not_serves (x := (aesXfer a src dst).advanced k) (v := w) (s := s) rfl
      (decide_eq_true (show w.length ≤ src.cbSrc + a.pend.length by omega))
      (by rw [hlen]; exact hrefused.resolve_left (by simp [hsrc]))
    exact ⟨_, by rw [aesLoop_read hsome hk hfeed hsrc, hwrite]; rfl⟩

end Turn

/-- While the pieces are served the loop goes on: a served beginning of `p` bytes that ends with a piece is fed. -/
theorem aesLoop_served {fuel p : Nat} {a : AesSession} {src : Source} {dst : Place} {s : State} (h : a.Wf) (hw : s.MemoryWf)
    (hfuel : src.cbSrc ≤ fuel) (hp : p ≤ src.cbSrc) (hcut : p = src.cbSrc ∨ 512 ∣ p)
    (hsrc : s.serves src.mt src.addr p = true)
    (hdst : s.serves dst.mt dst.addr (aesOutLen a { src with cbSrc := p }) = true) :
    ∃ fuel' v b t, src.cbSrc - p ≤ fuel' ∧ Fed a { src with cbSrc := p } dst s v b t ∧
      aesLoop fuel a (aesXfer a src dst) s = aesLoop fuel' b (aesXfer b (src.past p) (dst.past v.length)) t := by
  induction fuel generalizing a src dst s p with
  | zero =>
    obtain rfl : p = 0 := by omega
    exact ⟨0, [], a, s, by omega, .nil h rfl dst s, rfl⟩
  | succ n ih =>
    rcases Nat.eq_zero_or_pos p with rfl | hpos
    · exact ⟨n + 1, [], a, s, by omega, .nil h rfl dst s, rfl⟩
    obtain ⟨k, hk⟩ : ∃ k, k = min 512 src.cbSrc := ⟨_, rfl⟩
    have hkp : k = min 512 p := by omega
    obtain ⟨⟨w, c⟩, hfeed⟩ : ∃ o, aesFeed a (s.bytesAt src.mt src.addr k) = o := ⟨_, rfl⟩
    obtain ⟨hc, hlen, hpend⟩ := aesFeed_piece h hfeed
    have hout := aesOutLen_past hpend (show k ≤ p by omega) src
    obtain ⟨t, hloop, hpiece⟩ := aesLoop_piece (fuel := n) (by omega) hk h hfeed hw
      (State.serves_mono hsrc (Nat.le_refl _) (by omega)) (State.serves_mono hdst (Nat.le_refl _) (by omega))
    obtain ⟨fuel', v, b, u, hleft, hfed, hloop'⟩ := ih (p := p - k) (src := src.past k) (dst := dst.past w.length) hc
      (hpiece.moved.wf hw) (show src.cbSrc - k ≤ n by omega) (show p - k ≤ src.cbSrc - k by omega)
      (show p - k = src.cbSrc - k ∨ _ by omega)
      (by rw [hpiece.moved.serves]; exact State.serves_mono hsrc (Nat.le_add_right _ _) (show src.addr + k + _ ≤ _ by omega))
      (by rw [hpiece.moved.serves]
          exact State.serves_mono hdst (Nat.le_add_right _ _) (by rw [hout, ← hlen, ← Nat.add_assoc]; exact Nat.le_refl _))
    have hsplit : k + (p - k) = p := by omega
    refine ⟨fuel', w ++ v, b, u, ?_, .piece (src := { src with cbSrc := p }) h hkp hfeed hpiece hfed, ?_⟩
    · have hleft' : src.cbSrc - k - (p - k) ≤ fuel' := hleft
      omega
    · rw [hloop, hloop']
      simp only [Source.past, Place.past, List.length_append, Nat.add_assoc, Nat.sub_sub, hsplit]

/-- With its source and its output served the loop goes on to its end. -/
theorem aesLoop_fed {a : AesSession} {src : Source} {dst : Place} {s : State} (h : a.Wf) (hw : s.MemoryWf)
    (hsrc : s.serves src.mt src.addr src.cbSrc = true) (hdst : s.serves dst.mt dst.addr (aesOutLen a src) = true) :
    ∃ x v b t, aesLoop src.cbSrc a (aesXfer a src dst) s = .ok (b, x) t ∧ Fed a src dst s v b t := by
  obtain ⟨fuel, v, b, t, -, hfed, hloop⟩ := aesLoop_served h hw (Nat.le_refl _) (Nat.le_refl _) (.inl rfl) hsrc hdst
  exact ⟨_, v, b, t, hloop.trans (aesLoop_done (Nat.sub_self _)), hfed⟩

/-- A source whose piece at `n` is the first that the gateway refuses raises with the `n` bytes before it fed. -/
theorem aesLoop_raises {a : AesSession} {src : Source} {dst : Place} {s : State} {n m : Nat} {before after : Source}
    (h : a.Wf) (hw : s.MemoryWf) (hcut : 512 ∣ n) (hn : n < src.cbSrc) (hm : m = min 512 (src.cbSrc - n))
    (hbefore : before = { src with cbSrc := n }) (hafter : after = { src with cbSrc := n + m })
    (hsrc : s.serves src.mt src.addr n = true) (hdst : s.serves dst.mt dst.addr (aesOutLen a before) = true)
    (hrefused : s.serves src.mt (src.addr + n) m = false ∨
      s.serves dst.mt (dst.addr + aesOutLen a before) (aesOutLen a after - aesOutLen a before) = false) :
    ∃ e v b t, aesLoop src.cbSrc a (aesXfer a src dst) s = .raise e t ∧ Fed a before dst s v b t := by
  subst hbefore hafter
  obtain ⟨fuel, v, b, t, hfuel, hfed, hloop⟩ := aesLoop_served h hw (Nat.le_refl _) hn.le (.inr hcut) hsrc hdst
  obtain ⟨fuel, rfl⟩ : ∃ f, fuel = f + 1 := ⟨fuel - 1, by omega⟩
  have hnext : aesOutLen a { src with cbSrc := n + m } - aesOutLen a { src with cbSrc := n } =
      aesOutLen b { src.past n with cbSrc := m } := by
    rw [aesOutLen_past hfed.pend (Nat.le_add_right n m), Nat.add_sub_cancel_left, Nat.add_sub_cancel_left]
  rw [hnext, ← hfed.length] at hrefused
  obtain ⟨e, he⟩ := aesLoop_refused (fuel := fuel) (src := src.past n) (dst := dst.past v.length) (s := t)
    (show src.cbSrc - n ≠ 0 by omega) hm hfed.wf (by rw [hfed.wrote.moved.serves, hfed.wrote.moved.serves]; exact hrefused)
  exact ⟨e, v, b, t, hloop.trans he, hfed⟩

end Sys2Proof.Machine
end

section
/-! PROOFS. The AES commands (43_aes.md R186 to R202): the session that one opens, and what it leaves when it completes
and when it raises. -/

namespace Sys2Proof.Machine

/-! ## The instruction -/

theorem exec_of_aesOf {i : Instr} {p : AesParams} {r : AesReq} (h : aesOf i = some (p, r)) (s : State) :
    exec i s = retire (aesCommand (i.dw0 s.params.encoding) p r s) ∧ (p.klen = 16 ∨ p.klen = 32) := by
  cases i with
  | aes128EcbEnc | aes128EcbDec | aes128CbcEnc | aes128CbcDec => cases h; exact ⟨rfl, .inl rfl⟩
  | aes256EcbEnc | aes256EcbDec | aes256CbcEnc | aes256CbcDec => cases h; exact ⟨rfl, .inr rfl⟩
  | _ => cases h

theorem Executed.aes_completes {i : Instr} {p : AesParams} {r : AesReq} {s u : State} {x : Xfer} (hu : Executed s u)
    (hi : aesOf i = some (p, r)) (h : aesCommand (i.dw0 s.params.encoding) p r s = .ok x u) :
    ∃ t, exec i s = .next t ∧ Succeeded s t ∧ EndOf u t :=
  ⟨complete u, by rw [(exec_of_aesOf hi s).1, h, retire_ok], hu.succeeded_complete, endOf_complete u⟩

theorem Executed.aes_raises {i : Instr} {p : AesParams} {r : AesReq} {s u : State} {k : ErrKind} {reply : Reply}
    (hu : Executed s u) (hi : aesOf i = some (p, r)) (hp : s.phase = .draining reply)
    (h : aesCommand (i.dw0 s.params.encoding) p r s = .raise k u) :
    ∃ t, exec i s = .next t ∧ Failed s t ∧ EndOf u t :=
  ⟨takeError k u, by rw [(exec_of_aesOf hi s).1, h, retire_raise], hu.failed_takeError k hp,
    endOf_takeError k (hu.phase.trans hp)⟩

/-! ## The data at the end -/

@[simp] theorem State.setAes_byteAt (s : State) (v : Option AesSession) (mt : MemType) (a : Nat) :
    (s.setAes v).byteAt mt a = s.byteAt mt a := by
  cases mt <;> rfl

/-- The data at the end of a command that moved data from `s` to `u` and then made `v` the AES session. -/
structure EndOfAes (s u : State) (v : Option AesSession) (t : State) : Prop where
  sha : t.sha = s.sha
  aes : t.aes = v
  zlib : t.zlib = s.zlib
  freeCount : t.freeCount = s.freeCount
  sameBytes : SameBytes u t
  cbWrittenLast : t.cbWrittenLast = u.cbWrittenLast

theorem EndOf.aes {s u t : State} {v : Option AesSession} (h : EndOf (u.setAes v) t) (hm : Moved s u) : EndOfAes s u v t where
  sha := h.sessions.1.trans hm.sha
  aes := h.toSameData.aes
  zlib := h.zlib.trans hm.zlib
  freeCount := h.freeCount.trans hm.freeCount
  sameBytes mt a := (h.sameBytes mt a).trans (u.setAes_byteAt v mt a)
  cbWrittenLast := h.cbWrittenLast

/-- The bytes and the count of a command that cleared the counter and then wrote `w` at `d`. -/
theorem EndOfAes.leaves {s u t : State} {v : Option AesSession} {d : Place} {w : Bytes} {n : Nat} (h : EndOfAes s u v t)
    (hu : Wrote (xferClear s) u d w) (hn : w.length = n) :
    SameOutside s t d n ∧ t.cbWrittenLast = writtenAfter d n ∧ t.bytesAt d.mt d.addr n = w := by
  subst hn
  refine ⟨fun mt a ha => ?outside, ?count, ?bytes⟩
  case outside => rw [h.sameBytes, hu.sameOutside mt a ha, xferClear_byteAt]
  case count => simp [h.cbWrittenLast, hu.count, writtenAfter]
  case bytes => rw [h.sameBytes.bytesAt, hu.bytesAt]

/-! ## The session (R186 to R188, R201) -/

section Session
variable {p : AesParams} {r : AesReq} {s : State} {a : AesSession}

/-- A starting command makes the session that `aesOpens` names. -/
theorem aesStart_of_opens (hk : p.klen ≠ 0) (hstart : r.fl.init = true ∨ s.aes = none) (h : aesOpens p r s = some a) :
    aesStart p r (xferClear s) = .ok a ∧ a.pend = [] := by
  rw [aesOpens, if_pos hstart] at h
  split at h
  next hserves =>
    obtain rfl := Option.some.inj h
    have hread : readKey (xferClear s) r.key p.klen = .ok (s.bytesAt r.key.mt r.key.addr p.klen) := by
      rw [← xferClear_bytesAt]
      exact memRead_of_serves hk hserves
    have hiv : readIvSlot (xferClear s) r.src.ctx = s.bytesAt .sb (32 * r.src.ctx) 16 := (State.bytesAt_sb s _ 16).symm
    rw [aesStart, hread]
    cases p.mode <;> simp [hiv]
  next => cases h

theorem aesStart_refused (hk : p.klen ≠ 0) (hserves : s.serves r.key.mt r.key.addr p.klen = false) :
    aesStart p r (xferClear s) = .error (refusalKind r.key.mt r.key.addr p.klen) := by
  have hread : readKey (xferClear s) r.key p.klen = .error (refusalKind r.key.mt r.key.addr p.klen) :=
    memRead_of_not_serves hk hserves
  rw [aesStart, hread]

/-- The session that a command looks up: none for a starting one. -/
theorem aes_lookup_none (h : r.fl.init = true ∨ s.aes = none) : (if r.fl.init then none else s.aes) = none := by
  split
  · rfl
  · exact h.resolve_left ‹_›

theorem aesMatches_iff : aesMatches p a = true ↔ a.key.length = p.klen ∧ a.mode = p.mode ∧ a.dir = p.dir := by
  simp only [aesMatches, Bool.and_eq_true, beq_iff_eq, and_assoc]

/-- A continuing command opens the session present, whose parameters are its own. -/
theorem aesOpens_continuing (hcont : ¬(r.fl.init = true ∨ s.aes = none)) (h : aesOpens p r s = some a) :
    (if r.fl.init then none else s.aes) = some a ∧ aesMatches p a = true := by
  rw [aesOpens, if_neg hcont, Option.filter_eq_some_iff, decide_eq_true_eq] at h
  obtain ⟨hsess, hsame⟩ := h
  exact ⟨by rw [if_neg fun hinit => hcont (.inl hinit), hsess], aesMatches_iff.2 hsame⟩

theorem aesOpens_wf (hk : p.klen = 16 ∨ p.klen = 32) (hs : s.AesWf) (h : aesOpens p r s = some a) : a.Wf := by
  by_cases hstart : r.fl.init = true ∨ s.aes = none
  · exact aesStart_wf hk (aesStart_of_opens (by omega) hstart h).1
  · obtain ⟨hsess, -⟩ := aesOpens_continuing hstart h
    rw [if_neg fun hinit => hstart (.inl hinit)] at hsess
    exact hs a hsess

/-- However its session is opened, a command feeds it with the source and then closes it. -/
theorem aesLocal_opens (hk : p.klen ≠ 0) (h : aesOpens p r s = some a) :
    aesLocal p r s =
      (aesLoop r.src.cbSrc a (aesXfer a r.src r.dst) (xferClear s)).andThen fun q t => aesClose r.fl.eom q.1 q.2 t := by
  unfold aesLocal
  by_cases hstart : r.fl.init = true ∨ s.aes = none
  · obtain ⟨hsess, hpend⟩ := aesStart_of_opens hk hstart h
    simp only [aes_lookup_none hstart, hsess, Res.ofRead, Res.andThen, aesXfer, hpend, List.length_nil, Nat.add_zero]
  · obtain ⟨hsess, hsame⟩ := aesOpens_continuing hstart h
    simp only [hsess, hsame, if_true]

/-! ## The local path -/

theorem aesCommand_local (dw0 : Nat) (h : s.params.proxy = false ∨ protectedKey r.key = false) :
    aesCommand dw0 p r s = Res.onRaise (State.setAes · none) (aesLocal p r s) := by
  have hpath : (s.params.proxy && protectedKey r.key) = false := Bool.and_eq_false_iff.2 h
  rw [aesCommand, hpath]
  rfl

/-- A session of other parameters is an error (R201). -/
theorem aesLocal_mismatch (hinit : r.fl.init = false) (hsess : s.aes = some a)
    (hother : a.key.length ≠ p.klen ∨ a.mode ≠ p.mode ∨ a.dir ≠ p.dir) : aesLocal p r s = sessionMismatch s := by
  have hmatch : aesMatches p a = false := by
    rw [← Bool.not_eq_true, aesMatches_iff]
    tauto
  simp [aesLocal, hinit, hsess, hmatch]

/-- A key that is not served is an error before anything moves (R187). -/
theorem aesLocal_key_refused (hk : p.klen ≠ 0) (hstart : r.fl.init = true ∨ s.aes = none)
    (hserves : s.serves r.key.mt r.key.addr p.klen = false) :
    aesLocal p r s = .raise (refusalKind r.key.mt r.key.addr p.klen) (xferClear s) := by
  unfold aesLocal
  simp only [aes_lookup_none hstart, aesStart_refused hk hserves, Res.ofRead, Res.andThen]

/-- The close of a session with no pending bytes, or of one that is kept (R192). -/
theorem aesClose_ends {eom : Bool} (h : eom = true → a.pend = []) (x : Xfer) (s : State) :
    aesClose eom a x s = .ok x (s.setAes (if eom then none else some a)) := by
  cases eom with
  | true => rw [aesClose, if_pos rfl, if_pos (h rfl)]; rfl
  | false => rfl

theorem aesClose_ragged (h : a.pend ≠ []) (x : Xfer) (s : State) : aesClose true a x s = .raise .engineError s := by
  rw [aesClose, if_pos rfl, if_neg h]

end Session

/-! ## What a fed session leaves -/

theorem Fed.moved {a b : AesSession} {src : Source} {dst : Place} {s u : State} {v : Bytes}
    (h : Fed a src dst (xferClear s) v b u) : Moved s u :=
  (xferClear_moved s).trans h.wrote.moved

/-- The output of a source that is read as it stood. -/
theorem Fed.output {a b : AesSession} {src : Source} {dst : Place} {s u : State} {v : Bytes}
    (h : Fed a src dst (xferClear s) v b u) (hstable : sourceStable 512 src dst (aesOutLen a src)) :
    aesFeed a (s.bytesAt src.mt src.addr src.cbSrc) = (v, b) := by
  rw [← xferClear_bytesAt]
  exact h.feeds hstable

/-- A command that raises after its session was fed with `src`: the output is written, the session is emptied. -/
theorem Fed.aes_raises {i : Instr} {p : AesParams} {r : AesReq} {a b : AesSession} {src : Source} {s u : State} {v : Bytes}
    {k : ErrKind} {reply : Reply} (h : Fed a src r.dst (xferClear s) v b u) (hi : aesOf i = some (p, r))
    (hp : s.phase = .draining reply) (hcommand : aesCommand (i.dw0 s.params.encoding) p r s = .raise k (u.setAes none)) :
    ∃ t, exec i s = .next t ∧ Failed s t ∧ t.aes = none ∧ t.sha = s.sha ∧ t.zlib = s.zlib ∧
      SameOutside s t r.dst (aesOutLen a src) ∧ t.cbWrittenLast = writtenAfter r.dst (aesOutLen a src) ∧
      t.freeCount = s.freeCount ∧
      (sourceStable 512 src r.dst (aesOutLen a src) →
        t.bytesAt r.dst.mt r.dst.addr (aesOutLen a src) = (aesFeed a (s.bytesAt src.mt src.addr src.cbSrc)).1) := by
  have hu : Executed s (u.setAes none) := h.moved.executed.trans (executed_setAes u fun _ ha => by cases ha)
  obtain ⟨t, hexec, hfailed, hend⟩ := hu.aes_raises hi hp hcommand
  have hdata := hend.aes h.moved
  obtain ⟨houtside, hcount, hbytes⟩ := hdata.leaves h.wrote h.length
  exact ⟨t, hexec, hfailed, hdata.aes, hdata.sha, hdata.zlib, houtside, hcount, hdata.freeCount,
    fun hstable => by rw [hbytes, h.output hstable]⟩

/-- A command that raises with nothing written: the session is emptied. -/
theorem Moved.aes_raises {i : Instr} {p : AesParams} {r : AesReq} {s u : State} {k : ErrKind} {reply : Reply}
    (h : Moved s u) (hsame : SameBytes s u) (hi : aesOf i = some (p, r)) (hp : s.phase = .draining reply)
    (hcommand : aesCommand (i.dw0 s.params.encoding) p r s = .raise k (u.setAes none)) :
    ∃ t, exec i s = .next t ∧ Failed s t ∧ t.aes = none ∧ t.sha = s.sha ∧ t.zlib = s.zlib ∧ SameBytes s t ∧
      t.cbWrittenLast = u.cbWrittenLast ∧ t.freeCount = s.freeCount := by
  have hu : Executed s (u.setAes none) := h.executed.trans (executed_setAes u fun _ ha => by cases ha)
  obtain ⟨t, hexec, hfailed, hend⟩ := hu.aes_raises hi hp hcommand
  have hdata := hend.aes h
  exact ⟨t, hexec, hfailed, hdata.aes, hdata.sha, hdata.zlib, hsame.trans hdata.sameBytes, hdata.cbWrittenLast,
    hdata.freeCount⟩

/-! ## The statements about the local path -/

/-- Settles O18: the session that the command opens is fed with the source to its end and closed. -/
theorem aesProcessesWholeBlocks : Obligations.AesProcessesWholeBlocks := by
  intro s i p r a hi hw hs hpath hopens hsrc hdst hwhole
  have hk := (exec_of_aesOf hi s).2
  obtain ⟨x, v, b, u, hloop, hfed⟩ := aesLoop_fed (s := xferClear s) (aesOpens_wf hk hs hopens) ((xferClear_moved s).wf hw)
    hsrc hdst
  have hclose : r.fl.eom = true → b.pend = [] := fun heom => List.eq_nil_of_length_eq_zero (hfed.pend.trans (hwhole heom))
  have hcommand : aesCommand (i.dw0 s.params.encoding) p r s = .ok x (u.setAes (if r.fl.eom then none else some b)) := by
    rw [aesCommand_local _ hpath, aesLocal_opens (by omega) hopens, hloop]
    simp only [Res.andThen, aesClose_ends hclose, Res.onRaise]
  have hu : Executed s (u.setAes (if r.fl.eom then none else some b)) := by
    refine hfed.moved.executed.trans (executed_setAes u fun c hc => ?_)
    split at hc
    · cases hc
    · exact Option.some.inj hc ▸ hfed.wf
  obtain ⟨t, hexec, hsucceeded, hend⟩ := hu.aes_completes hi hcommand
  have hdata := hend.aes hfed.moved
  obtain ⟨houtside, hcount, hbytes⟩ := hdata.leaves hfed.wrote hfed.length
  refine ⟨t, hexec, hsucceeded, hdata.sha, hdata.zlib, hdata.freeCount, houtside, hcount, fun heom => ?emptied,
    fun hstable => ?fed⟩
  case emptied => rw [hdata.aes, if_pos heom]
  case fed =>
    rw [hfed.output hstable]
    exact ⟨hbytes, fun heom => by rw [hdata.aes, heom]; rfl⟩

/-- Settles O19: the four failures in the order in which a command meets them. -/
theorem aesFailuresEmptyTheSession : Obligations.AesFailuresEmptyTheSession := by
  intro s i p r reply hi hp hpath
  have hk := (exec_of_aesOf hi s).2
  refine ⟨fun hinit a hsess hother => ?mismatch, fun hstart hkey => ?key, ?piece, ?ragged⟩
  case mismatch =>
    obtain ⟨u, hu, hmoved, hcount, hbytes⟩ := sessionMismatch_raises Xfer s
    obtain ⟨t, hexec, hfailed, haes, hsha, hzlib, hsame, hleft, hfree⟩ := hmoved.aes_raises hbytes hi hp
      (by rw [aesCommand_local _ hpath, aesLocal_mismatch hinit hsess hother, hu]; rfl)
    exact ⟨t, hexec, hfailed, haes, hsha, hzlib, hsame, hleft.trans hcount, hfree⟩
  case key =>
    exact (xferClear_moved s).aes_raises (sameBytes_xferClear s) hi hp
      (by rw [aesCommand_local _ hpath, aesLocal_key_refused (by omega) hstart hkey]; rfl)
  case piece =>
    rintro a j n m before after hw hs hopens rfl hn hm hbefore hafter hsrc hdst hrefused
    obtain ⟨e, v, b, u, hloop, hfed⟩ := aesLoop_raises (s := xferClear s) (aesOpens_wf hk hs hopens)
      ((xferClear_moved s).wf hw) (Nat.dvd_mul_right 512 j) hn hm hbefore hafter hsrc hdst hrefused
    have hcommand : aesCommand (i.dw0 s.params.encoding) p r s = .raise e (u.setAes none) := by
      rw [aesCommand_local _ hpath, aesLocal_opens (by omega) hopens, hloop]
      rfl
    have hfails := hfed.aes_raises hi hp hcommand
    subst hbefore
    exact hfails
  case ragged =>
    intro a hw hs hopens hsrc hdst heom hragged
    obtain ⟨x, v, b, u, hloop, hfed⟩ := aesLoop_fed (s := xferClear s) (aesOpens_wf hk hs hopens)
      ((xferClear_moved s).wf hw) hsrc hdst
    have hpend : b.pend ≠ [] := fun hnone => hragged (hfed.pend.symm.trans (congrArg List.length hnone))
    refine hfed.aes_raises (k := .engineError) hi hp ?_
    rw [aesCommand_local _ hpath, aesLocal_opens (by omega) hopens, hloop, heom]
    simp only [Res.andThen, aesClose_ragged hpend, Res.onRaise]

end Sys2Proof.Machine
end

section
/-! PROOFS. The AES commands with a protected key and a proxy (43_aes.md R189): the source is read whole, the proxy is
called, and its answer is written. -/

namespace Sys2Proof.Machine

theorem length_proxyOut (k : Nat) (call : ProxyCall) : (proxyOut k call).length = call.cbSrc := by
  simp [proxyOut]

theorem proxyOut_getD (k : Nat) (call : ProxyCall) {i : Nat} (hi : i < call.cbSrc) :
    (proxyOut k call).getD i 0 = Config.proxyByte k call i := by
  simp [proxyOut, List.getD_eq_getElem?_getD, hi]

theorem proxySource_served {x : Xfer} {s : State} (h : s.serves x.srcMt x.srcAddr x.rdLeft = true) :
    proxySource x s = .ok (s.bytesAt x.srcMt x.srcAddr x.rdLeft, x.advanced x.rdLeft) := by
  unfold proxySource
  split
  next hnone => rw [hnone, Xfer.advanced_zero]; rfl
  next hsome => exact xferRead_of_serves hsome (Nat.le_refl _) h

theorem proxySource_refused {x : Xfer} {s : State} (h : s.serves x.srcMt x.srcAddr x.rdLeft = false) :
    proxySource x s = .error (refusalKind x.srcMt x.srcAddr x.rdLeft) := by
  have hsome : x.rdLeft ≠ 0 := by
    intro hnone
    rw [hnone] at h
    cases h
  rw [proxySource, if_neg hsome]
  exact xferRead_of_not_serves hsome (Nat.le_refl _) h

section Call
variable {p : AesParams} {r : AesReq} {s : State} {dw0 : Nat}

/-- The arguments of the call: clearing the counter changed none of them. -/
theorem proxyCall_eq :
    proxyCall dw0 p r (s.bytesAt r.src.mt r.src.addr r.src.cbSrc) (xferClear s) =
      { dw0 := dw0
        cbSrc := r.src.cbSrc
        src := s.bytesAt r.src.mt r.src.addr r.src.cbSrc
        keyAddr := r.key.addr
        iv := if p.mode = .cbc then s.bytesAt .sb (32 * r.src.ctx) 16 else [] } := by
  have hiv : readIvSlot (xferClear s) r.src.ctx = s.bytesAt .sb (32 * r.src.ctx) 16 := (State.bytesAt_sb s _ 16).symm
  rw [proxyCall, proxyIv]
  cases p.mode <;> simp [hiv]

theorem aesCommand_proxy (hproxy : s.params.proxy = true) (hkey : protectedKey r.key = true) :
    aesCommand dw0 p r s = Res.onRaise (State.setAes · none) (aesProxy dw0 p r s) := by
  rw [aesCommand, hproxy, hkey]
  rfl

theorem aesProxy_source_refused (h : s.serves r.src.mt r.src.addr r.src.cbSrc = false) :
    ∃ k, aesProxy dw0 p r s = .raise k (xferClear s) := by
  have hsource := proxySource_refused (x := xferOf r.src r.dst (some r.src.cbSrc) false) (s := xferClear s) h
  exact ⟨_, by rw [aesProxy, hsource]; rfl⟩

/-- With a source that is served the proxy is called, and its answer decides. -/
theorem aesProxy_called {call : ProxyCall}
    (hcall : call = proxyCall dw0 p r (s.bytesAt r.src.mt r.src.addr r.src.cbSrc) (xferClear s))
    (h : s.serves r.src.mt r.src.addr r.src.cbSrc = true) :
    aesProxy dw0 p r s =
      if Config.proxyFails s.freeCount call then .raise .proxyError (xferClear s.bumpFree)
      else
        xferWriteSome ((xferOf r.src r.dst (some r.src.cbSrc) false).advanced r.src.cbSrc) (proxyOut s.freeCount call)
          (xferClear s.bumpFree) := by
  have hsource := proxySource_served (x := xferOf r.src r.dst (some r.src.cbSrc) false) (s := xferClear s) h
  rw [aesProxy, hsource, hcall, ← xferClear_bytesAt]
  rfl

/-- A call that fails, or whose answer cannot be written, raises with nothing written. -/
theorem aesProxy_fails {call : ProxyCall}
    (hcall : call = proxyCall dw0 p r (s.bytesAt r.src.mt r.src.addr r.src.cbSrc) (xferClear s))
    (hsrc : s.serves r.src.mt r.src.addr r.src.cbSrc = true)
    (h : Config.proxyFails s.freeCount call = true ∨ s.serves r.dst.mt r.dst.addr r.src.cbSrc = false) :
    ∃ k, aesProxy dw0 p r s = .raise k (xferClear s.bumpFree) := by
  rw [aesProxy_called hcall hsrc]
  split
  next => exact ⟨_, rfl⟩
  next hanswers =>
    have hlen : (proxyOut s.freeCount call).length = r.src.cbSrc := by rw [length_proxyOut, hcall]; rfl
    exact ⟨_, xferWriteSome_of_not_serves rfl (decide_eq_true hlen.le)
      (by rw [hlen]; exact h.resolve_left hanswers)⟩

/-- An answer that can be written is written. -/
theorem aesProxy_writes {call : ProxyCall}
    (hcall : call = proxyCall dw0 p r (s.bytesAt r.src.mt r.src.addr r.src.cbSrc) (xferClear s)) (hw : s.MemoryWf)
    (hsrc : s.serves r.src.mt r.src.addr r.src.cbSrc = true) (hanswers : ¬Config.proxyFails s.freeCount call = true)
    (hdst : s.serves r.dst.mt r.dst.addr r.src.cbSrc = true) :
    ∃ x u, aesProxy dw0 p r s = .ok x u ∧ Wrote (xferClear s.bumpFree) u r.dst (proxyOut s.freeCount call) := by
  have hlen : (proxyOut s.freeCount call).length = r.src.cbSrc := by rw [length_proxyOut, hcall]; rfl
  obtain ⟨u, hu, hwrote⟩ := xferWriteSome_wrote (s := xferClear s.bumpFree)
    (x := (xferOf r.src r.dst (some r.src.cbSrc) false).advanced r.src.cbSrc) (v := proxyOut s.freeCount call) hw rfl
    (decide_eq_true hlen.le) (by rw [hlen]; exact hdst)
  exact ⟨_, u, by rw [aesProxy_called hcall hsrc, if_neg hanswers, hu], hwrote⟩

end Call

/-- Settles O20: the command from the state after the free value was drawn. -/
theorem aesProxyAnswerIsWritten : Obligations.AesProxyAnswerIsWritten := by
  intro s i p r reply call hi hw hp hproxy hkey hargs
  have hcall := hargs.trans proxyCall_eq.symm
  have hdrawn : Moved s.bumpFree (xferClear s.bumpFree) := xferClear_moved _
  cases hsrc : s.serves r.src.mt r.src.addr r.src.cbSrc with
  | false =>
    obtain ⟨k, hraise⟩ := aesProxy_source_refused (p := p) (dw0 := i.dw0 s.params.encoding) hsrc
    obtain ⟨t, hexec, hfailed, haes, hsha, hzlib, hsame, hcount, hfree⟩ := (xferClear_moved s).aes_raises
      (sameBytes_xferClear s) hi hp (by rw [aesCommand_proxy hproxy hkey, hraise]; rfl)
    exact ⟨t, hexec, hsha, hzlib, by rw [if_pos rfl]; exact ⟨hfailed, haes, hsame, hcount, hfree⟩⟩
  | true =>
    simp only [Bool.true_eq_false, if_false]
    by_cases hbad : Config.proxyFails s.freeCount call = true ∨ s.serves r.dst.mt r.dst.addr r.src.cbSrc = false
    · obtain ⟨k, hraise⟩ := aesProxy_fails hcall hsrc hbad
      have hu : Executed s ((xferClear s.bumpFree).setAes none) :=
        ((executed_bumpFree s).trans hdrawn.executed).trans (executed_setAes _ fun _ ha => by cases ha)
      obtain ⟨t, hexec, hfailed, hend⟩ := hu.aes_raises (k := k) hi hp (by rw [aesCommand_proxy hproxy hkey, hraise]; rfl)
      have hdata := hend.aes hdrawn
      refine ⟨t, hexec, hdata.sha, hdata.zlib, ?_⟩
      rw [if_pos hbad]
      exact ⟨hfailed, hdata.aes, (sameBytes_xferClear s.bumpFree).trans hdata.sameBytes, hdata.cbWrittenLast,
        hdata.freeCount⟩
    · obtain ⟨hanswers, hdst⟩ := not_or.1 hbad
      obtain ⟨x, u, hanswer, hwrote⟩ := aesProxy_writes hcall hw hsrc hanswers (Bool.of_not_eq_false hdst)
      have hmoved : Moved s.bumpFree u := hdrawn.trans hwrote.moved
      obtain ⟨t, hexec, hsucceeded, hend⟩ := ((executed_bumpFree s).trans hmoved.executed).aes_completes hi
        (by rw [aesCommand_proxy hproxy hkey, hanswer]; rfl)
      have hdata : EndOfAes s.bumpFree u u.aes t := EndOf.aes hend hmoved
      have hlen : (proxyOut s.freeCount call).length = r.src.cbSrc := by rw [length_proxyOut, hcall]; rfl
      obtain ⟨houtside, hcount, hbytes⟩ := hdata.leaves hwrote hlen
      refine ⟨t, hexec, hdata.sha, hdata.zlib, ?_⟩
      rw [if_neg hbad]
      refine ⟨hsucceeded, hdata.aes.trans hmoved.aes, houtside, hdata.freeCount, hcount, fun k hk => ?_⟩
      rw [← State.bytesAt_getD t r.dst.mt r.dst.addr r.src.cbSrc k hk, hbytes, proxyOut_getD _ _ (by rw [hcall]; exact hk)]

end Sys2Proof.Machine
end

section
/-! PROOFS. The RSA commands (44_rsa.md R206 to R211): the modular power by repeated squaring, and what a command leaves when it
completes and when it raises. -/

namespace Sys2Proof.Machine

/-! ## The modular power (R207) -/

/-- One step of repeated squaring: the square of the power to half the exponent, times the base when the exponent is odd. -/
theorem pow_mod_of_half (b e n : Nat) :
    b ^ e % n =
      if e % 2 = 1 then b ^ (e / 2) % n * (b ^ (e / 2) % n) % n * b % n else b ^ (e / 2) % n * (b ^ (e / 2) % n) % n := by
  have hsquare : b ^ (e / 2) % n * (b ^ (e / 2) % n) % n = b ^ (e / 2 + e / 2) % n := by rw [← Nat.mul_mod, Nat.pow_add]
  rw [hsquare]
  split
  next hodd =>
    have hexp : e = e / 2 + e / 2 + 1 := by omega
    rw [Nat.mod_mul_mod, ← pow_succ, ← hexp]
  next heven =>
    have hexp : e = e / 2 + e / 2 := by omega
    rw [← hexp]

/-- Settles O23, by induction on the number of bits of the exponent. -/
theorem powModIsModularPower : Obligations.PowModIsModularPower := by
  intro k b e n he
  induction k generalizing e with
  | zero =>
    obtain rfl : e = 0 := Nat.lt_one_iff.1 he
    rfl
  | succ k ih =>
    rw [powMod]
    split
    next hzero => rw [hzero, Nat.pow_zero]
    next hpos =>
      have hhalf : powMod k b (e / 2) n = b ^ (e / 2) % n := ih (e / 2) (by rw [Nat.pow_succ] at he; omega)
      rw [hhalf, pow_mod_of_half b e n]

/-! ## The operands (R206) -/

/-- A slice of the bytes from `a` up is the bytes from its own place up. -/
theorem slice_bytesAt {n i k : Nat} (s : State) (mt : MemType) (a : Nat) (h : i + k ≤ n) :
    slice (s.bytesAt mt a n) i k = s.bytesAt mt (a + i) k := by
  obtain ⟨r, rfl⟩ := Nat.exists_eq_add_of_le h
  rw [Nat.add_assoc, State.bytesAt_append, State.bytesAt_append, slice, List.drop_left' (State.bytesAt_length ..),
    List.take_left' (State.bytesAt_length ..)]

/-- The modulus, the first half of the source. -/
abbrev rsaModulus (s : State) (size : Nat) (src : Source) : Nat := le (s.bytesAt src.mt src.addr size)

/-- The message, the second half of the source. -/
abbrev rsaMessage (s : State) (size : Nat) (src : Source) : Nat := le (s.bytesAt src.mt (src.addr + size) size)

/-- The exponent, the key. -/
abbrev rsaExponent (s : State) (size : Nat) (key : Place) : Nat := le (s.bytesAt key.mt key.addr size)

/-- What an RSA command computes. -/
abbrev rsaPower (s : State) (size : Nat) (src : Source) (key : Place) : Nat :=
  rsaMessage s size src ^ rsaExponent s size key % rsaModulus s size src

theorem rsaExponent_lt (s : State) (size : Nat) (key : Place) : rsaExponent s size key < 2 ^ (8 * size) :=
  calc rsaExponent s size key < 256 ^ (s.bytesAt key.mt key.addr size).length := le_lt_pow_length _
    _ = 2 ^ (8 * size) := by rw [State.bytesAt_length, Nat.pow_mul]

/-- The computation on the bytes that a command reads. -/
theorem rsaResult_bytesAt (s : State) (size : Nat) (src : Source) (key : Place) :
    rsaResult size (s.bytesAt key.mt key.addr size) (s.bytesAt src.mt src.addr (2 * size)) =
      if rsaModulus s size src ≤ rsaMessage s size src then .error .engineError
      else .ok (toBe (rsaPower s size src key) size) := by
  rw [rsaResult, slice_bytesAt s src.mt src.addr (show 0 + size ≤ 2 * size by omega),
    slice_bytesAt s src.mt src.addr (show size + size ≤ 2 * size by omega),
    powModIsModularPower _ _ _ _ (rsaExponent_lt s size key)]
  rfl

/-- The result fits its `size` bytes. -/
theorem le_toLe_rsaPower {s : State} {size : Nat} {src : Source} (key : Place)
    (h : rsaMessage s size src < rsaModulus s size src) :
    le (toLe (rsaPower s size src key) size) = rsaPower s size src key := by
  have hpower : rsaPower s size src key < rsaModulus s size src := Nat.mod_lt _ (Nat.zero_lt_of_lt h)
  have hmodulus := le_lt_pow_length (s.bytesAt src.mt src.addr size)
  rw [State.bytesAt_length] at hmodulus
  rw [Laws.le_toLe, Nat.mod_eq_of_lt (hpower.trans hmodulus)]

/-! ## The command -/

theorem xferRead_past_count {x : Xfer} {n : Nat} (s : State) (h : x.rdLeft < n) : xferRead x n s = .error .outOfRange :=
  if_neg (Nat.not_le.2 h)

/-- The transfer context of an RSA command when its source has been read. -/
abbrev rsaXferRead (size : Nat) (src : Source) (dst : Place) : Xfer := (xferOf src dst (some size) true).advanced (2 * size)

section Command
variable {size : Nat} {src : Source} {dst key : Place} {s : State} (hsize : 0 < size)
include hsize

theorem rsaCommand_key_refused (h : s.serves key.mt key.addr size = false) :
    ∃ k, rsaCommand size src dst key s = .raise k (xferClear s) := by
  have hread := memRead_of_not_serves (s := xferClear s) hsize.ne' h
  exact ⟨_, by rw [rsaCommand, readKey, hread]; rfl⟩

section Key
variable (hkey : s.serves key.mt key.addr size = true)
include hkey

/-- With a key that is served a command goes on to its source. -/
theorem rsaCommand_keyed :
    rsaCommand size src dst key s =
      (Res.ofRead (xferClear s) (xferRead (xferOf src dst (some size) true) (2 * size) (xferClear s))).andThen fun p s2 =>
        (Res.ofRead s2 (rsaResult size (s.bytesAt key.mt key.addr size) p.1)).andThen fun c s3 => xferWrite p.2 c s3 := by
  have hread := memRead_of_serves (s := xferClear s) hsize.ne' hkey
  rw [rsaCommand, readKey, hread]
  rfl

theorem rsaCommand_source_refused (h : src.cbSrc < 2 * size ∨ s.serves src.mt src.addr (2 * size) = false) :
    ∃ k, rsaCommand size src dst key s = .raise k (xferClear s) := by
  rcases Nat.lt_or_ge src.cbSrc (2 * size) with hshort | hlong
  · exact ⟨_, by rw [rsaCommand_keyed hsize hkey, xferRead_past_count _ hshort]; rfl⟩
  · have hread := xferRead_of_not_serves (x := xferOf src dst (some size) true) (s := xferClear s)
      (show 2 * size ≠ 0 by omega) hlong (h.resolve_left (Nat.not_lt.2 hlong))
    exact ⟨_, by rw [rsaCommand_keyed hsize hkey, hread]; rfl⟩

section Source
variable (hlong : 2 * size ≤ src.cbSrc) (hsrc : s.serves src.mt src.addr (2 * size) = true)
include hlong hsrc

/-- With a key and a source that are served a command goes on to its computation. -/
theorem rsaCommand_read :
    rsaCommand size src dst key s =
      (Res.ofRead (xferClear s)
        (if rsaModulus s size src ≤ rsaMessage s size src then .error .engineError
          else .ok (toBe (rsaPower s size src key) size))).andThen fun c s3 => xferWrite (rsaXferRead size src dst) c s3 := by
  have hread := xferRead_of_serves (x := xferOf src dst (some size) true) (s := xferClear s)
    (show 2 * size ≠ 0 by omega) hlong hsrc
  rw [rsaCommand_keyed hsize hkey, hread, ← rsaResult_bytesAt]
  rfl

theorem rsaCommand_message_refused (h : rsaModulus s size src ≤ rsaMessage s size src) :
    rsaCommand size src dst key s = .raise .engineError (xferClear s) := by
  rw [rsaCommand_read hsize hkey hlong hsrc, if_pos h]
  rfl

section Message
variable (hmessage : rsaMessage s size src < rsaModulus s size src)
include hmessage

/-- With a message below the modulus a command is one downward write of its result from `size` bytes above the destination. -/
theorem rsaCommand_computed :
    rsaCommand size src dst key s =
      xferWriteDown (rsaXferRead size src dst) (toBe (rsaPower s size src key) size) (xferClear s) := by
  rw [rsaCommand_read hsize hkey hlong hsrc, if_neg (Nat.not_le.2 hmessage)]
  exact xferWrite_reverse (xferClear s) rfl (decide_eq_true (length_toBe ..).le)

theorem rsaCommand_wrote (hw : s.MemoryWf) (hdst : s.serves dst.mt dst.addr size = true) :
    ∃ x u, rsaCommand size src dst key s = .ok x u ∧
      Wrote (xferClear s) u dst (toLe (rsaPower s size src key) size) := by
  have htop : (rsaXferRead size src dst).dstAddr = dst.addr + size := rfl
  have hbottom : (rsaXferRead size src dst).dstAddr - size = dst.addr := by omega
  obtain ⟨u, hu, hwrote⟩ := xferWriteDown_wrote (x := rsaXferRead size src dst)
    (v := toBe (rsaPower s size src key) size) ((xferClear_moved s).wf hw) (by rw [length_toBe]; omega)
    (by rw [length_toBe, hbottom]; exact hdst)
  rw [length_toBe, hbottom, toBe, List.reverse_reverse] at hwrote
  exact ⟨_, u, (rsaCommand_computed hsize hkey hlong hsrc hmessage).trans hu, hwrote⟩

/-- Where the `k`-th destination byte down is refused, the result's bytes above it are written. -/
theorem rsaCommand_raises {k : Nat} (hw : s.MemoryWf) (hk : k < size)
    (hbefore : s.serves dst.mt (dst.addr + size - k) k = true)
    (hat : s.serves dst.mt (dst.addr + size - k - 1) 1 = false) :
    ∃ e u, rsaCommand size src dst key s = .raise e u ∧
      Wrote (xferClear s) u ⟨dst.addr + size - k, dst.mt⟩ ((toLe (rsaPower s size src key) size).drop (size - k)) := by
  have hlen : (toBe (rsaPower s size src key) size).length = size := length_toBe _ _
  have htop : (rsaXferRead size src dst).dstAddr = dst.addr + size := rfl
  obtain ⟨u, hu, hwrote⟩ := xferWriteDown_raises (x := rsaXferRead size src dst) (i := k) ((xferClear_moved s).wf hw)
    (hk.trans_eq hlen.symm) (by omega) hbefore hat
  rw [toBe, List.take_reverse, List.reverse_reverse, Laws.length_toLe] at hwrote
  exact ⟨_, u, (rsaCommand_computed hsize hkey hlong hsrc hmessage).trans hu, hwrote⟩

end Message
end Source
end Key

/-- A failure before the first byte is written (R211). -/
theorem rsaCommand_nothing_written
    (h : s.serves key.mt key.addr size = false ∨ src.cbSrc < 2 * size ∨ s.serves src.mt src.addr (2 * size) = false ∨
      rsaModulus s size src ≤ rsaMessage s size src) :
    ∃ k, rsaCommand size src dst key s = .raise k (xferClear s) := by
  cases hkey : s.serves key.mt key.addr size with
  | false => exact rsaCommand_key_refused hsize hkey
  | true =>
    by_cases hsource : src.cbSrc < 2 * size ∨ s.serves src.mt src.addr (2 * size) = false
    · exact rsaCommand_source_refused hsize hkey hsource
    · obtain ⟨hlong, hsrc⟩ := not_or.1 hsource
      have hmessage := ((h.resolve_left (by simp [hkey])).resolve_left hlong).resolve_left hsrc
      exact ⟨_, rsaCommand_message_refused hsize hkey (Nat.not_lt.1 hlong) (Bool.of_not_eq_false hsrc) hmessage⟩

end Command

/-! ## The instruction (R208, R209) -/

theorem exec_of_rsaOf {i : Instr} {size : Nat} {src : Source} {dst key : Place} (h : rsaOf i = some (size, src, dst, key))
    (s : State) : exec i s = retire (rsaCommand size src dst key s) ∧ 0 < size := by
  cases i with
  | rsaModexp2048 | rsaModexp4096 => cases h; exact ⟨rfl, by decide⟩
  | _ => cases h

/-! ## The statements -/

/-- Settles O24: the operands are read before any byte is written, and the result is one downward write. -/
theorem rsaWritesModularPower : Obligations.RsaWritesModularPower := by
  intro s i size src dst key hi hw hkey hlong hsrc hdst hmessage
  obtain ⟨hexec, hsize⟩ := exec_of_rsaOf hi s
  obtain ⟨x, u, hcommand, hwrote⟩ := rsaCommand_wrote hsize hkey hlong hsrc hmessage hw hdst
  have hend := endOf_complete u
  have hlen : (toLe (rsaPower s size src key) size).length = size := Laws.length_toLe _ _
  obtain ⟨hsessions, hfree, houtside, hcount⟩ := hend.leaves hwrote hlen
  have hbytes := hwrote.bytesAt
  rw [hlen] at hbytes
  refine ⟨complete u, by rw [hexec, hcommand, retire_ok], ((xferClear_moved s).trans hwrote.moved).succeeded_complete,
    hsessions, hfree, houtside, hcount, ?_⟩
  rw [hend.sameBytes.bytesAt, hbytes, le_toLe_rsaPower key hmessage]

/-- Settles O25: a failure before the write clears the counter alone, one in it leaves the bytes above the refused one. -/
theorem rsaFailuresLeaveWhatWasWritten : Obligations.RsaFailuresLeaveWhatWasWritten := by
  rintro s i size src dst key r n m e hi hphase rfl rfl rfl
  obtain ⟨hexec, hsize⟩ := exec_of_rsaOf hi s
  refine ⟨?nothingWritten, ?someWritten⟩
  case nothingWritten =>
    intro hrefused
    obtain ⟨k, hcommand⟩ := rsaCommand_nothing_written (dst := dst) hsize hrefused
    obtain ⟨hfailed, hend⟩ := (xferClear_moved s).failed_takeError k hphase
    obtain ⟨hsessions, hfree⟩ := hend.kept (xferClear_moved s)
    exact ⟨takeError k (xferClear s), by rw [hexec, hcommand, retire_raise], hfailed, hsessions,
      (sameBytes_xferClear s).trans hend.sameBytes, hend.cbWrittenLast, hfree⟩
  case someWritten =>
    intro k hw hkey hlong hsrc hmessage hk hbefore hat
    obtain ⟨e, u, hcommand, hwrote⟩ := rsaCommand_raises hsize hkey hlong hsrc hmessage hw hk hbefore hat
    obtain ⟨hfailed, hend⟩ := ((xferClear_moved s).trans hwrote.moved).failed_takeError e hphase
    have hlen : ((toLe (rsaPower s size src key) size).drop (size - k)).length = k := by
      rw [List.length_drop, Laws.length_toLe]
      omega
    obtain ⟨hsessions, hfree, houtside, hcount⟩ := hend.leaves hwrote hlen
    have hbytes := hwrote.bytesAt
    rw [hlen] at hbytes
    exact ⟨takeError e u, by rw [hexec, hcommand, retire_raise], hfailed, hsessions, hfree, houtside, hcount,
      (hend.sameBytes.bytesAt ..).trans hbytes⟩

end Sys2Proof.Machine
end

section
/-! PROOFS. The ECC commands (45_ecc.md R215 to R228): the operands in the request block, the one write of the result, and what a
command leaves when it completes and when it fails. -/

namespace Sys2Proof.Machine

/-! ## The request block (R216, R217) -/

/-- The prime and the listed numbers of a well-formed block lie inside it. -/
theorem eccBlockWf_inside {blen off : Nat} {l : List Nat} (h : eccBlockWf blen l) (hoff : off ∈ 0 :: l) : off + 72 ≤ blen := by
  obtain ⟨hinside, -⟩ := h
  exact hinside ⟨off, eccNumBytes⟩ (List.mem_map_of_mem hoff)

/-- A number of the block that a command reads is the number that lies at its place in memory. -/
theorem eccNum_bytesAt {blen off : Nat} (s : State) (src : Source) (h : off + 72 ≤ blen) :
    eccNum (s.bytesAt src.mt src.addr blen) off = eccOperand s src off :=
  congrArg le (slice_bytesAt s src.mt src.addr h)

theorem eccNum_of_eccBlockWf {blen off : Nat} {l : List Nat} (s : State) (src : Source) (h : eccBlockWf blen l)
    (hoff : off ∈ 0 :: l) : eccNum (s.bytesAt src.mt src.addr blen) off = eccOperand s src off :=
  eccNum_bytesAt s src (eccBlockWf_inside h hoff)

/-! ## The results (R216, R226) -/

/-- Every result of the operation has `n` bytes. -/
def EccYields (n : Nat) (op : Bytes → Except ErrKind Bytes) : Prop := ∀ blk v, op blk = .ok v → v.length = n

theorem length_eccEnc (v : Nat) : (eccEnc v).length = 72 := Laws.length_toLe v eccNumBytes

theorem length_of_ok_eccEnc {w : Nat} {v : Bytes} (h : (.ok (eccEnc w) : Except ErrKind Bytes) = .ok v) : v.length = 72 := by
  obtain rfl := Except.ok.inj h
  exact length_eccEnc w

theorem length_of_eccEncodePoint {inf : EccInfinity} {R : Point} {v : Bytes} (h : eccEncodePoint inf R = .ok v) :
    v.length = 144 := by
  cases R with
  | affine x y =>
    obtain rfl := Except.ok.inj h
    rw [List.length_append, length_eccEnc, length_eccEnc]
  | infinity =>
    cases inf with
    | fault => cases h
    | zero =>
      obtain rfl := Except.ok.inj h
      exact List.length_replicate

/-- The result of an operation on points: `R` encoded when the points in the block are on the curve, else a failure (R225). -/
def eccPointResult (valid : Bool) (inf : EccInfinity) (R : Point) : Except ErrKind Bytes :=
  if valid then eccEncodePoint inf R else .error .engineError

theorem length_of_eccPointResult {valid : Bool} {inf : EccInfinity} {R : Point} {v : Bytes}
    (h : eccPointResult valid inf R = .ok v) : v.length = 144 := by
  cases valid with
  | false => cases h
  | true => exact length_of_eccEncodePoint h

theorem eccYields_eccMulF (l : EccFieldBlock) : EccYields 72 (eccMulF l) := fun _ _ h => length_of_ok_eccEnc h

theorem eccYields_eccAddF (l : EccFieldBlock) : EccYields 72 (eccAddF l) := fun _ _ h => length_of_ok_eccEnc h

theorem eccYields_eccInvF (l : EccInvBlock) : EccYields 72 (eccInvF l) := by
  intro blk v h
  rw [eccInvF] at h
  split at h
  next => cases h
  next => exact length_of_ok_eccEnc h

theorem eccYields_eccMulC (l : EccMulBlock) (inf : EccInfinity) : EccYields 144 (eccMulC l inf) :=
  fun _ _ h => length_of_eccPointResult h

theorem eccYields_eccMulAddC (l : EccMulAddBlock) (inf : EccInfinity) : EccYields 144 (eccMulAddC l inf) :=
  fun _ _ h => length_of_eccPointResult h

theorem p384Prime_lt_two_pow : p384Prime < 2 ^ 384 := by decide +kernel

/-- A number below the prime fits its 72 bytes. -/
theorem le_eccEnc {v : Nat} (h : v < p384Prime) : le (eccEnc v) = v := by
  have hfits : v < 256 ^ eccNumBytes :=
    calc v < p384Prime := h
      _ < 2 ^ 384 := p384Prime_lt_two_pow
      _ < 256 ^ eccNumBytes := by decide +kernel
  rw [eccEnc, Laws.le_toLe, Nat.mod_eq_of_lt hfits]

/-- The inverse by Fermat's exponent is a modular power of the operand itself (R222, R321). -/
theorem fpInv_eq_pow_mod (a : Nat) : fpInv a = a ^ (p384Prime - 2) % p384Prime := by
  have hexponent : p384Prime - 2 < 2 ^ 384 := (Nat.sub_le _ _).trans_lt p384Prime_lt_two_pow
  rw [fpInv, powModIsModularPower _ _ _ _ hexponent, ← Nat.pow_mod]

/-! ## The operations on the bytes that a command reads -/

section Operations
variable (s : State) (src : Source)

theorem eccMulF_bytesAt {l : EccFieldBlock} (h : eccBlockWf l.blen [l.a, l.b]) :
    eccMulF l (s.bytesAt src.mt src.addr l.blen) = .ok (eccEnc (fpMul (eccOperand s src l.a) (eccOperand s src l.b))) := by
  simp [eccMulF, eccNum_of_eccBlockWf s src h]

theorem eccAddF_bytesAt {l : EccFieldBlock} (h : eccBlockWf l.blen [l.a, l.b]) :
    eccAddF l (s.bytesAt src.mt src.addr l.blen) = .ok (eccEnc (fpAdd (eccOperand s src l.a) (eccOperand s src l.b))) := by
  simp [eccAddF, eccNum_of_eccBlockWf s src h]

theorem eccInvF_bytesAt {l : EccInvBlock} (h : eccBlockWf l.blen [l.a]) :
    eccInvF l (s.bytesAt src.mt src.addr l.blen) =
      if eccOperand s src l.a % p384Prime = 0 then .error .engineError else .ok (eccEnc (fpInv (eccOperand s src l.a))) := by
  simp [eccInvF, eccNum_of_eccBlockWf s src h]

theorem eccMulC_bytesAt {l : EccMulBlock} (inf : EccInfinity) (h : eccBlockWf l.blen [l.k, l.x, l.y, l.coefficient]) :
    eccMulC l inf (s.bytesAt src.mt src.addr l.blen) =
      eccPointResult (onCurve (eccOperand s src l.x) (eccOperand s src l.y)) inf
        (eccScalarMul (eccOperand s src l.k) (eccOperand s src l.x) (eccOperand s src l.y)) := by
  simp [eccMulC, eccPointResult, eccNum_of_eccBlockWf s src h]

theorem eccMulAddC_bytesAt {l : EccMulAddBlock} (inf : EccInfinity)
    (h : eccBlockWf l.blen [l.k1, l.x1, l.y1, l.k2, l.x2, l.y2, l.coefficient]) :
    eccMulAddC l inf (s.bytesAt src.mt src.addr l.blen) =
      eccPointResult
        (onCurve (eccOperand s src l.x1) (eccOperand s src l.y1) && onCurve (eccOperand s src l.x2) (eccOperand s src l.y2)) inf
        (pointAdd (eccScalarMul (eccOperand s src l.k1) (eccOperand s src l.x1) (eccOperand s src l.y1))
          (eccScalarMul (eccOperand s src l.k2) (eccOperand s src l.x2) (eccOperand s src l.y2))) := by
  simp [eccMulAddC, eccPointResult, eccNum_of_eccBlockWf s src h]

end Operations

/-! ## The command (R219) -/

/-- The transfer context of an ECC command when its block has been read. -/
abbrev eccXferRead (blen rlen : Nat) (src : Source) (dst : Place) : Xfer := (xferOf src dst (some rlen) false).advanced blen

section Command
variable {blen rlen : Nat} {op : Bytes → Except ErrKind Bytes} {src : Source} {dst : Place} {bits : Nat} {s : State}

theorem eccCommand_bits_refused (h : 576 < bits) : eccCommand blen rlen op src dst bits s = .raise .notImplemented s := by
  rw [eccCommand, if_pos (show eccMaxBits < bits from h)]

section Bits
variable (hbits : bits ≤ 576)
include hbits

/-- With a bit count that fits its numbers a command goes on to its source. -/
theorem eccCommand_transfers :
    eccCommand blen rlen op src dst bits s =
      (Res.ofRead (xferClear s) (xferRead (xferOf src dst (some rlen) false) blen (xferClear s))).andThen fun p s1 =>
        (Res.ofRead s1 (eccCompute op p.1)).andThen fun r s2 => xferWrite p.2 r s2 := by
  rw [eccCommand, if_neg (show ¬ eccMaxBits < bits from Nat.not_lt.2 hbits)]

variable (hblen : 72 ≤ blen)
include hblen

theorem eccCommand_source_refused (h : src.cbSrc < blen ∨ s.serves src.mt src.addr blen = false) :
    ∃ k, eccCommand blen rlen op src dst bits s = .raise k (xferClear s) := by
  rcases Nat.lt_or_ge src.cbSrc blen with hshort | hlong
  · exact ⟨_, by rw [eccCommand_transfers hbits, xferRead_past_count _ hshort]; rfl⟩
  · have hread := xferRead_of_not_serves (x := xferOf src dst (some rlen) false) (s := xferClear s)
      (show blen ≠ 0 by omega) hlong (h.resolve_left (Nat.not_lt.2 hlong))
    exact ⟨_, by rw [eccCommand_transfers hbits, hread]; rfl⟩

section Block
variable (hlong : blen ≤ src.cbSrc) (hsrc : s.serves src.mt src.addr blen = true)
include hlong hsrc

/-- With a source that is served a command goes on to its prime. -/
theorem eccCommand_read :
    eccCommand blen rlen op src dst bits s =
      (Res.ofRead (xferClear s)
        (if eccOperand s src 0 = p384Prime then op (s.bytesAt src.mt src.addr blen) else .error .notImplemented)).andThen
        fun v s2 => xferWrite (eccXferRead blen rlen src dst) v s2 := by
  have hread := xferRead_of_serves (x := xferOf src dst (some rlen) false) (s := xferClear s)
    (show blen ≠ 0 by omega) hlong hsrc
  rw [eccCommand_transfers hbits, hread, ← eccNum_bytesAt s src (show 0 + 72 ≤ blen by omega)]
  rfl

theorem eccCommand_prime_refused (h : eccOperand s src 0 ≠ p384Prime) :
    eccCommand blen rlen op src dst bits s = .raise .notImplemented (xferClear s) := by
  rw [eccCommand_read hbits hblen hlong hsrc, if_neg h]
  rfl

section Prime
variable (hprime : eccOperand s src 0 = p384Prime)
include hprime

theorem eccCommand_operation_raises {k : ErrKind} (hop : op (s.bytesAt src.mt src.addr blen) = .error k) :
    eccCommand blen rlen op src dst bits s = .raise k (xferClear s) := by
  rw [eccCommand_read hbits hblen hlong hsrc, if_pos hprime, hop]
  rfl

section Result
variable {v : Bytes} (hop : op (s.bytesAt src.mt src.addr blen) = .ok v)
include hop

/-- With a result a command is one forward write of it. -/
theorem eccCommand_computed :
    eccCommand blen rlen op src dst bits s = xferWrite (eccXferRead blen rlen src dst) v (xferClear s) := by
  rw [eccCommand_read hbits hblen hlong hsrc, if_pos hprime, hop]
  rfl

variable (hv : v.length = rlen) (hrlen : 0 < rlen)
include hv hrlen

theorem eccCommand_destination_refused (hdst : s.serves dst.mt dst.addr rlen = false) :
    ∃ k, eccCommand blen rlen op src dst bits s = .raise k (xferClear s) := by
  subst hv
  have hwrite := xferWrite_of_not_serves (x := eccXferRead blen v.length src dst) (s := xferClear s) rfl
    (List.length_pos_iff.1 hrlen) (decide_eq_true le_rfl) hdst
  exact ⟨_, (eccCommand_computed hbits hblen hlong hsrc hprime hop).trans hwrite⟩

theorem eccCommand_wrote (hdst : s.serves dst.mt dst.addr rlen = true) :
    ∃ x u, eccCommand blen rlen op src dst bits s = .ok x u ∧ (s.MemoryWf → Wrote (xferClear s) u dst v) := by
  subst hv
  obtain ⟨u, hu, hwrite⟩ := xferWrite_forward (x := eccXferRead blen v.length src dst) (s := xferClear s) rfl
    (List.length_pos_iff.1 hrlen) (decide_eq_true le_rfl) hdst
  obtain ⟨-, hmoved, hcount, hbytes⟩ := memWrite_ok hwrite
  exact ⟨_, u, (eccCommand_computed hbits hblen hlong hsrc hprime hop).trans hu,
    fun hw => ⟨hmoved, hcount, hbytes ((xferClear_moved s).wf hw)⟩⟩

end Result
end Prime
end Block
end Bits

/-- Every way in which a command ends: the bit count is refused, something later is refused before a byte is written, or the
command goes on to its end. -/
theorem eccCommand_cases (hblen : 72 ≤ blen) (hyields : EccYields rlen op) (hrlen : 0 < rlen) :
    (576 < bits ∧ eccCommand blen rlen op src dst bits s = .raise .notImplemented s) ∨
      (bits ≤ 576 ∧ ∃ k, eccCommand blen rlen op src dst bits s = .raise k (xferClear s)) ∨
      (bits ≤ 576 ∧
        ¬(src.cbSrc < blen ∨ s.serves src.mt src.addr blen = false ∨ eccOperand s src 0 ≠ p384Prime ∨
          s.serves dst.mt dst.addr rlen = false) ∧
        ∃ x u, eccCommand blen rlen op src dst bits s = .ok x u) := by
  rcases Nat.lt_or_ge 576 bits with hlarge | hbits
  · exact .inl ⟨hlarge, eccCommand_bits_refused hlarge⟩
  refine .inr ?_
  by_cases hsource : src.cbSrc < blen ∨ s.serves src.mt src.addr blen = false
  · exact .inl ⟨hbits, eccCommand_source_refused hbits hblen hsource⟩
  obtain ⟨hshort, hunserved⟩ := not_or.1 hsource
  have hlong : blen ≤ src.cbSrc := Nat.not_lt.1 hshort
  have hsrc : s.serves src.mt src.addr blen = true := Bool.of_not_eq_false hunserved
  by_cases hprime : eccOperand s src 0 = p384Prime
  case neg => exact .inl ⟨hbits, _, eccCommand_prime_refused hbits hblen hlong hsrc hprime⟩
  cases hop : op (s.bytesAt src.mt src.addr blen) with
  | error k => exact .inl ⟨hbits, k, eccCommand_operation_raises hbits hblen hlong hsrc hprime hop⟩
  | ok v =>
    have hv : v.length = rlen := hyields _ v hop
    cases hdst : s.serves dst.mt dst.addr rlen with
    | false => exact .inl ⟨hbits, eccCommand_destination_refused hbits hblen hlong hsrc hprime hop hv hrlen hdst⟩
    | true =>
      obtain ⟨x, u, hcommand, -⟩ := eccCommand_wrote hbits hblen hlong hsrc hprime hop hv hrlen hdst
      refine .inr ⟨hbits, ?_, x, u, hcommand⟩
      rintro (h | h | h | h)
      · exact hshort h
      · exact hunserved h
      · exact h hprime
      · cases h

/-! ## What a command leaves -/

/-- What a command leaves, the sessions apart, whose operation gave `result`: its `n` bytes at the destination, or the failure
with nothing written (R219, R228). -/
def EccLeaves (s t : State) (dst : Place) (n : Nat) (result : Except ErrKind Bytes) : Prop :=
  match result with
  | .ok v =>
    Succeeded s t ∧ SameOutside s t dst n ∧ t.cbWrittenLast = writtenAfter dst n ∧ t.bytesAt dst.mt dst.addr n = v
  | .error _ => Failed s t ∧ SameBytes s t ∧ t.cbWrittenLast = 0

/-- A failure after the transfer began and before the write. -/
theorem eccLeaves_takeError {k : ErrKind} {r : Reply} (n : Nat) (hp : s.phase = .draining r) :
    SameSessions s (takeError k (xferClear s)) ∧ (takeError k (xferClear s)).freeCount = s.freeCount ∧
      EccLeaves s (takeError k (xferClear s)) dst n (.error k) := by
  obtain ⟨hfailed, hend⟩ := (xferClear_moved s).failed_takeError k hp
  obtain ⟨hsessions, hfree⟩ := hend.kept (xferClear_moved s)
  exact ⟨hsessions, hfree, hfailed, (sameBytes_xferClear s).trans hend.sameBytes, hend.cbWrittenLast⟩

theorem eccLeaves_complete {u : State} {v : Bytes} (h : Wrote (xferClear s) u dst v) :
    SameSessions s (complete u) ∧ (complete u).freeCount = s.freeCount ∧ EccLeaves s (complete u) dst v.length (.ok v) := by
  have hend := endOf_complete u
  obtain ⟨hsessions, hfree, houtside, hcount⟩ := hend.leaves h rfl
  exact ⟨hsessions, hfree, ((xferClear_moved s).trans h.moved).succeeded_complete, houtside, hcount,
    (hend.sameBytes.bytesAt ..).trans h.bytesAt⟩

/-- What a command leaves, the sessions apart, whose result is the point `R` (R226). -/
def EccLeavesPoint (s t : State) (dst : Place) (R : Point) (inf : EccInfinity) : Prop :=
  match R, inf with
  | .infinity, .fault => Failed s t ∧ SameBytes s t ∧ t.cbWrittenLast = 0
  | .infinity, .zero =>
    Succeeded s t ∧ SameOutside s t dst 144 ∧ t.cbWrittenLast = writtenAfter dst 144 ∧
      t.bytesAt dst.mt dst.addr 144 = List.replicate 144 0
  | .affine x y, _ =>
    Succeeded s t ∧ SameOutside s t dst 144 ∧ t.cbWrittenLast = writtenAfter dst 144 ∧
      t.bytesAt dst.mt dst.addr 144 = toLe x 72 ++ toLe y 72

theorem EccLeaves.encoded {t : State} {R : Point} {inf : EccInfinity} (h : EccLeaves s t dst 144 (eccEncodePoint inf R)) :
    EccLeavesPoint s t dst R inf := by
  cases R with
  | affine x y => exact h
  | infinity =>
    cases inf with
    | fault => exact h
    | zero => exact h

section Served
variable (hbits : bits ≤ 576) (hblen : 72 ≤ blen) (hlong : blen ≤ src.cbSrc) (hsrc : s.serves src.mt src.addr blen = true)
  (hprime : eccOperand s src 0 = p384Prime)
include hbits hblen hlong hsrc hprime

/-- A command whose operation fails. -/
theorem eccCommand_fails {k : ErrKind} {r : Reply} (hop : op (s.bytesAt src.mt src.addr blen) = .error k)
    (hp : s.phase = .draining r) :
    ∃ t, retire (eccCommand blen rlen op src dst bits s) = .next t ∧ SameSessions s t ∧ t.freeCount = s.freeCount ∧
      EccLeaves s t dst rlen (.error k) := by
  have hcommand := eccCommand_operation_raises (rlen := rlen) (dst := dst) hbits hblen hlong hsrc hprime hop
  exact ⟨takeError k (xferClear s), by rw [hcommand, retire_raise], eccLeaves_takeError rlen hp⟩

/-- A command whose operation gives a result that its destination takes. -/
theorem eccCommand_completes {v : Bytes} (hop : op (s.bytesAt src.mt src.addr blen) = .ok v) (hv : v.length = rlen)
    (hrlen : 0 < rlen) (hdst : s.serves dst.mt dst.addr rlen = true) (hw : s.MemoryWf) :
    ∃ t, retire (eccCommand blen rlen op src dst bits s) = .next t ∧ SameSessions s t ∧ t.freeCount = s.freeCount ∧
      EccLeaves s t dst rlen (.ok v) := by
  obtain ⟨x, u, hcommand, hwrote⟩ := eccCommand_wrote hbits hblen hlong hsrc hprime hop hv hrlen hdst
  subst hv
  exact ⟨complete u, by rw [hcommand, retire_ok], eccLeaves_complete (hwrote hw)⟩

/-- A command on points: a failure off the curve, else what its result `R` leaves (R225, R226). -/
theorem eccCommand_point {valid : Bool} {inf : EccInfinity} {R : Point} {r : Reply}
    (hop : op (s.bytesAt src.mt src.addr blen) = eccPointResult valid inf R) (hdst : s.serves dst.mt dst.addr 144 = true)
    (hw : s.MemoryWf) (hp : s.phase = .draining r) :
    ∃ t, retire (eccCommand blen 144 op src dst bits s) = .next t ∧ SameSessions s t ∧ t.freeCount = s.freeCount ∧
      if valid = false then Failed s t ∧ SameBytes s t ∧ t.cbWrittenLast = 0 else EccLeavesPoint s t dst R inf := by
  cases valid with
  | false => exact eccCommand_fails hbits hblen hlong hsrc hprime hop hp
  | true =>
    have hends : ∃ t, retire (eccCommand blen 144 op src dst bits s) = .next t ∧ SameSessions s t ∧
        t.freeCount = s.freeCount ∧ EccLeaves s t dst 144 (eccEncodePoint inf R) := by
      cases hresult : eccEncodePoint inf R with
      | ok v =>
        exact eccCommand_completes hbits hblen hlong hsrc hprime (hop.trans hresult) (length_of_eccEncodePoint hresult)
          (by decide) hdst hw
      | error k => exact eccCommand_fails hbits hblen hlong hsrc hprime (hop.trans hresult) hp
    obtain ⟨t, ht, hsessions, hfree, hleaves⟩ := hends
    exact ⟨t, ht, hsessions, hfree, hleaves.encoded⟩

end Served

end Command

/-! ## The instructions (R220 to R224) -/

theorem exec_of_eccOf {i : Instr} {blen rlen : Nat} {src : Source} {dst : Place} {bits : Nat} {s : State}
    (h : eccOf s.params.ecc i = some (blen, rlen, src, dst, bits)) (hwf : s.params.ecc.WF) :
    ∃ op, exec i s = retire (eccCommand blen rlen op src dst bits s) ∧ EccYields rlen op ∧ 72 ≤ blen ∧ 0 < rlen := by
  cases i with
  | eccMulf => cases h; exact ⟨_, rfl, eccYields_eccMulF _, eccBlockWf_inside hwf.mulf List.mem_cons_self, by decide⟩
  | eccAddf => cases h; exact ⟨_, rfl, eccYields_eccAddF _, eccBlockWf_inside hwf.addf List.mem_cons_self, by decide⟩
  | eccInvf => cases h; exact ⟨_, rfl, eccYields_eccInvF _, eccBlockWf_inside hwf.invf List.mem_cons_self, by decide⟩
  | eccMulc => cases h; exact ⟨_, rfl, eccYields_eccMulC _ _, eccBlockWf_inside hwf.mulc List.mem_cons_self, by decide⟩
  | eccMuladdc =>
    cases h; exact ⟨_, rfl, eccYields_eccMulAddC _ _, eccBlockWf_inside hwf.muladdc List.mem_cons_self, by decide⟩
  | _ => cases h

/-! ## The statements -/

/-- Settles O26: neither operation fails on any block, and the result is one forward write. -/
theorem eccFieldOperationsCompute : Obligations.EccFieldOperationsCompute := by
  intro s fl src dst bits hw hwf hbits hdst hprime
  refine ⟨?product, ?sum⟩
  case product =>
    rintro l rfl hlong hsrc
    obtain ⟨t, ht, hsessions, hfree, hsucceeded, hleft⟩ :=
      eccCommand_completes hbits (eccBlockWf_inside hwf.mulf List.mem_cons_self) hlong hsrc hprime
        (eccMulF_bytesAt s src hwf.mulf) (length_eccEnc _) (by decide) hdst hw
    exact ⟨t, ht, hsucceeded, hsessions, hfree, hleft⟩
  case sum =>
    rintro l rfl hlong hsrc
    obtain ⟨t, ht, hsessions, hfree, hsucceeded, hleft⟩ :=
      eccCommand_completes hbits (eccBlockWf_inside hwf.addf List.mem_cons_self) hlong hsrc hprime
        (eccAddF_bytesAt s src hwf.addf) (length_eccEnc _) (by decide) hdst hw
    exact ⟨t, ht, hsucceeded, hsessions, hfree, hleft⟩

/-- Settles O27: the command ends as `eccInvF` does, and the inverse fits its 72 bytes. -/
theorem eccInversionComputes : Obligations.EccInversionComputes := by
  rintro s fl src dst bits r l hw hwf hphase hbits rfl hlong hsrc hdst hprime
  have hblen := eccBlockWf_inside hwf.invf List.mem_cons_self
  have hop := eccInvF_bytesAt s src hwf.invf
  by_cases hmultiple : eccOperand s src s.params.ecc.invf.a % p384Prime = 0
  case pos =>
    rw [if_pos hmultiple] at hop
    simp only [if_pos hmultiple]
    exact eccCommand_fails hbits hblen hlong hsrc hprime hop hphase
  case neg =>
    rw [if_neg hmultiple] at hop
    simp only [if_neg hmultiple]
    obtain ⟨t, ht, hsessions, hfree, hsucceeded, houtside, hcount, hbytes⟩ :=
      eccCommand_completes hbits hblen hlong hsrc hprime hop (length_eccEnc _) (by decide) hdst hw
    refine ⟨t, ht, hsessions, hfree, hsucceeded, houtside, hcount, ?_⟩
    rw [hbytes, fpInv_eq_pow_mod, le_eccEnc (Nat.mod_lt _ (by decide +kernel))]

/-- Settles O28: the operation is the multiple of the point when that is on the curve. -/
theorem eccScalarMultiplyComputes : Obligations.EccScalarMultiplyComputes := by
  rintro s fl src dst bits r l hw hwf hphase hbits rfl hlong hsrc hdst hprime
  have hop := eccMulC_bytesAt s src s.params.eccInfinity hwf.mulc
  generalize eccScalarMul _ _ _ = R at hop ⊢
  exact eccCommand_point hbits (eccBlockWf_inside hwf.mulc List.mem_cons_self) hlong hsrc hprime hop hdst hw hphase

/-- Settles O29: the operation is the sum of the two multiples when both points are on the curve. -/
theorem eccMultiplyAddComputes : Obligations.EccMultiplyAddComputes := by
  rintro s fl src dst bits r l hw hwf hphase hbits rfl hlong hsrc hdst hprime
  have hop := eccMulAddC_bytesAt s src s.params.eccInfinity hwf.muladdc
  generalize pointAdd _ _ = R at hop ⊢
  exact eccCommand_point hbits (eccBlockWf_inside hwf.muladdc List.mem_cons_self) hlong hsrc hprime hop hdst hw hphase

/-- Settles O31, by the ways in which a command ends: before its one write it has changed the counter at most. -/
theorem eccWritesAllOrNothing : Obligations.EccWritesAllOrNothing := by
  intro s i blen rlen src dst bits r hwf hi hphase
  obtain ⟨op, hexec, hyields, hblen, hrlen⟩ := exec_of_eccOf hi hwf
  rcases eccCommand_cases (src := src) (dst := dst) (bits := bits) (s := s) hblen hyields hrlen with
    ⟨hlarge, hcommand⟩ | ⟨hbits, k, hcommand⟩ | ⟨hbits, hserved, x, u, hcommand⟩
  · obtain ⟨hfailed, hend⟩ := (Moved.refl s).failed_takeError .notImplemented hphase
    obtain ⟨hsessions, hfree⟩ := hend.kept (.refl s)
    exact ⟨takeError .notImplemented s, by rw [hexec, hcommand, retire_raise], hsessions, hfree,
      .inr ⟨hfailed, hend.sameBytes⟩, fun _ => ⟨hfailed, hend.cbWrittenLast⟩,
      fun hbits => absurd hlarge (Nat.not_lt.2 hbits)⟩
  · obtain ⟨hsessions, hfree, hfailed, hbytes, hcount⟩ := eccLeaves_takeError (k := k) (dst := dst) rlen hphase
    exact ⟨takeError k (xferClear s), by rw [hexec, hcommand, retire_raise], hsessions, hfree, .inr ⟨hfailed, hbytes⟩,
      fun hlarge => absurd hlarge (Nat.not_lt.2 hbits), fun _ _ => ⟨hfailed, hcount⟩⟩
  · have hmoved := eccCommand_moved blen rlen op src dst bits s
    rw [hcommand] at hmoved
    obtain ⟨hsessions, hfree⟩ := (endOf_complete u).kept hmoved
    exact ⟨complete u, by rw [hexec, hcommand, retire_ok], hsessions, hfree, .inl hmoved.succeeded_complete,
      fun hlarge => absurd hlarge (Nat.not_lt.2 hbits), fun _ hrefused => absurd hrefused hserved⟩

end Sys2Proof.Machine
end

section
/-! PROOFS. The readers of the bit stream (49_reference_algorithms.md R325 to R331): an item or an error found in the bits at
hand stands when more bits come; only where they are too few does the answer wait for more. -/

namespace Sys2Proof.Machine

/-- What a reader answers that does not look at the bits `w`: they stay unread. -/
def Take.more {α : Type} (w : Bits) : Take α → Take α
  | .got a rest => .got a (rest ++ w)
  | .short => .short
  | .bad => .bad

/-- A reader that consumes at least `k` bits for an item, and whose answer stands whatever bits come after it (R331). -/
structure Reads {α : Type} (k : Nat) (f : Bits → Take α) : Prop where
  keeps : ∀ bs w, f bs ≠ .short → f (bs ++ w) = (f bs).more w
  takes : ∀ bs a rest, f bs = .got a rest → rest.length + k ≤ bs.length

namespace Reads

theorem keeps_bad {α : Type} {k : Nat} {f : Bits → Take α} (h : Reads k f) {bs : Bits} (w : Bits) (hbad : f bs = .bad) :
    f (bs ++ w) = .bad := by
  rw [h.keeps bs w (by simp [hbad]), hbad]
  rfl

theorem keeps_got {α : Type} {k : Nat} {f : Bits → Take α} (h : Reads k f) {bs : Bits} (w : Bits) {a : α} {rest : Bits}
    (hgot : f bs = .got a rest) : f (bs ++ w) = .got a (rest ++ w) := by
  rw [h.keeps bs w (by simp [hgot]), hgot]
  rfl

theorem weaken {α : Type} {k : Nat} {f : Bits → Take α} (h : Reads k f) : Reads 0 f where
  keeps := h.keeps
  takes bs a rest hgot := (Nat.le_add_right _ k).trans (h.takes bs a rest hgot)

theorem got {α : Type} (a : α) : Reads 0 (Take.got a) where
  keeps _ _ _ := rfl
  takes bs b rest h := by cases h; exact Nat.le_refl _

theorem bad {α : Type} (k : Nat) : Reads k fun _ => (.bad : Take α) where
  keeps _ _ _ := rfl
  takes _ _ _ h := by cases h

theorem andThen {α β : Type} {k : Nat} {f : Bits → Take α} {g : α → Bits → Take β} (hf : Reads k f)
    (hg : ∀ a, Reads 0 (g a)) : Reads k fun bs => (f bs).andThen g where
  keeps bs w h := by
    cases hbs : f bs with
    | got a rest =>
      rw [hbs] at h
      rw [hf.keeps_got w hbs]
      exact (hg a).keeps rest w h
    | short => exact absurd (by rw [hbs]; rfl) h
    | bad => rw [hf.keeps_bad w hbs]; rfl
  takes bs b rest h := by
    cases hbs : f bs with
    | got a mid =>
      rw [hbs] at h
      have hfirst := hf.takes bs a mid hbs
      have hsecond := (hg a).takes mid b rest h
      omega
    | short => rw [hbs] at h; cases h
    | bad => rw [hbs] at h; cases h

theorem ite {α : Type} {k : Nat} {c : Prop} [Decidable c] {f g : Bits → Take α} (hf : Reads k f) (hg : Reads k g) :
    Reads k fun bs => if c then f bs else g bs := by
  split
  · exact hf
  · exact hg

/-- A reader that looks at the first bit. -/
theorem ofBit {α : Type} {f : Bits → Take α} (hnil : f [] = .short) (hcons : ∀ b, Reads 0 fun bs => f (b :: bs)) :
    Reads 1 f where
  keeps bs w h := by
    cases bs with
    | nil => exact absurd hnil h
    | cons b bs => exact (hcons b).keeps bs w h
  takes bs a rest h := by
    cases bs with
    | nil => cases hnil.symm.trans h
    | cons b bs => exact Nat.succ_le_succ ((hcons b).takes bs a rest h)

end Reads

theorem reads_takeInt (n : Nat) : Reads n (takeInt n) where
  keeps bs w h := by
    unfold takeInt at h ⊢
    split at h
    · exact absurd rfl h
    · next hlen =>
      have hle : n ≤ bs.length := Nat.not_lt.1 hlen
      have hmore : ¬(bs ++ w).length < n := by rw [List.length_append]; omega
      rw [if_neg hlen, if_neg hmore, List.take_append_of_le_length hle, List.drop_append_of_le_length hle]
      rfl
  takes bs a rest h := by
    unfold takeInt at h
    split at h
    · cases h
    · cases h
      rw [List.length_drop]
      omega

/-! ## Canonical codes (R330) -/

theorem reads_takeSym (codes : List Code) (fuel n acc : Nat) : Reads 1 (takeSym codes fuel n acc) := by
  induction fuel generalizing n acc with
  | zero => exact .bad 1
  | succ fuel ih =>
    refine .ofBit rfl fun b => ?_
    unfold takeSym
    dsimp only
    split
    · exact .got _
    · exact .ite (ih _ _).weaken (.bad 0)

theorem reads_takeSymbol (codes : List Code) : Reads 1 (takeSymbol codes) := reads_takeSym codes 15 0 0

/-! ## Code lengths (R328) -/

theorem reads_takeCodeLenLens (order lens : List Nat) : Reads 0 (takeCodeLenLens order lens) := by
  induction order generalizing lens with
  | nil => exact .got lens
  | cons i order ih => exact (reads_takeInt 3).weaken.andThen fun v => ih (lens.set i v)

theorem reads_takeRepeat (sym : Nat) (lens : List Nat) : Reads 0 (takeRepeat sym lens) := by
  refine .ite (.got _) (.ite ((reads_takeInt 2).weaken.andThen fun v => ?_)
    (.ite ((reads_takeInt 3).weaken.andThen fun _ => .got _) ((reads_takeInt 7).weaken.andThen fun _ => .got _)))
  cases lens with
  | nil => exact .bad 0
  | cons l lens => exact .got _

theorem reads_takeLens (codes : List Code) (total fuel : Nat) (lens : List Nat) :
    Reads 0 (takeLens codes total fuel lens) := by
  induction fuel generalizing lens with
  | zero => exact .bad 0
  | succ fuel ih =>
    exact .ite (.got _) ((reads_takeSymbol codes).weaken.andThen fun sym =>
      (reads_takeRepeat sym lens).andThen fun lens1 => .ite (.bad 0) (ih lens1))

theorem reads_takeDynamic : Reads 0 takeDynamic :=
  (reads_takeInt 5).weaken.andThen fun _ => (reads_takeInt 5).weaken.andThen fun _ =>
    (reads_takeInt 4).weaken.andThen fun _ => .ite (.bad 0) ((reads_takeCodeLenLens _ _).andThen fun _ =>
      .ite ((reads_takeLens _ _ _ _).andThen fun _ => .ite (.got _) (.bad 0)) (.bad 0))

/-! ## Compressed data, blocks and the container (R326, R327, R329, R332) -/

theorem reads_takeDistance (dist : List Code) (length : Nat) : Reads 0 (takeDistance dist length) :=
  (reads_takeSymbol dist).weaken.andThen fun _ => .ite (.bad 0) ((reads_takeInt _).weaken.andThen fun _ => .got _)

theorem reads_takeItem (lit dist : List Code) : Reads 1 (takeItem lit dist) :=
  (reads_takeSymbol lit).andThen fun _ => .ite (.got _) (.ite (.got _) (.ite (.bad 0)
    ((reads_takeInt _).weaken.andThen fun _ => reads_takeDistance dist _)))

theorem reads_takeBlockHeader : Reads 1 takeBlockHeader :=
  (reads_takeInt 1).andThen fun _ => (reads_takeInt 2).weaken.andThen fun _ => .got _

/-- `LEN` and `NLEN` of a stored block (R327). -/
def takeStoredLens (bs : Bits) : Take (Nat × Nat) :=
  (takeInt 16 bs).andThen fun len bs1 => (takeInt 16 bs1).andThen fun nlen bs2 => .got (len, nlen) bs2

theorem reads_takeStoredLens : Reads 0 takeStoredLens :=
  (reads_takeInt 16).weaken.andThen fun _ => (reads_takeInt 16).weaken.andThen fun _ => .got _

theorem reads_takeHeader : Reads 0 takeHeader :=
  (reads_takeInt 8).weaken.andThen fun _ => (reads_takeInt 8).weaken.andThen fun _ =>
    .ite (.ite ((reads_takeInt 32).weaken.andThen fun _ => .bad 0) (.got ())) (.bad 0)

theorem reads_takeTrailer : Reads 0 takeTrailer :=
  (reads_takeInt 8).weaken.andThen fun _ => (reads_takeInt 8).weaken.andThen fun _ =>
    (reads_takeInt 8).weaken.andThen fun _ => (reads_takeInt 8).weaken.andThen fun _ => .got _

/-- Whole bytes after the bits at hand do not move the byte boundary. -/
theorem alignByte_append {bs w : Bits} (hw : 8 ∣ w.length) : alignByte (bs ++ w) = alignByte bs ++ w := by
  have hphase : (bs ++ w).length % 8 = bs.length % 8 := by rw [List.length_append]; omega
  rw [alignByte, alignByte, hphase, List.drop_append_of_le_length (Nat.mod_le _ _)]

theorem length_alignByte_le (bs : Bits) : (alignByte bs).length ≤ bs.length := by
  rw [alignByte, List.length_drop]
  exact Nat.sub_le _ _

theorem bitStream_append (z w : Bytes) : bitStream (z ++ w) = bitStream z ++ bitStream w := List.flatMap_append

theorem eight_dvd_length_bitStream (z : Bytes) : 8 ∣ (bitStream z).length := by
  induction z with
  | nil => exact Nat.dvd_zero 8
  | cons b z ih =>
    have hbyte : (byteBits b).length = 8 := by simp [byteBits]
    rw [bitStream, List.flatMap_cons, List.length_append, hbyte]
    exact Nat.dvd_add (Nat.dvd_refl 8) ih

end Sys2Proof.Machine
end

section
/-! PROOFS. `INFLATE(z)` on more input (49_reference_algorithms.md R327 to R331): the run over a longer stream does the same as
long as the shorter one lasts, and its output only grows. -/

namespace Sys2Proof.Machine

/-! ## How a run goes on with more bits -/

/-- The output of a run, newest byte first. -/
def Run.out : Run → Bytes
  | .cont _ out => out
  | .stop _ out => out

/-- The run when it does not look at the bits `w`. -/
def Run.more (w : Bits) : Run → Run
  | .cont rest out => .cont (rest ++ w) out
  | .stop st out => .stop st out

/-- A run that begins with `n` bits and the output `out`: it only adds to the output, and leaves no more bits than it found. -/
structure Run.From (n : Nat) (out : Bytes) (r : Run) : Prop where
  out : out <:+ r.out
  left : ∀ rest o, r = .cont rest o → rest.length ≤ n

/-- `r'` is a run as `r` with the bits `w` more: where `r` waits for input `r'` may have more output, else they are one. -/
structure Run.Grows (w : Bits) (r r' : Run) : Prop where
  out : r.out <:+ r'.out
  decided : (∀ o, r ≠ .stop .needMore o) → r' = r.more w

namespace Run

theorem From.stop (n : Nat) (st : InfStatus) (out : Bytes) : From n out (.stop st out) :=
  ⟨List.suffix_rfl, fun _ _ h => by cases h⟩

theorem From.cont {n : Nat} {bs : Bits} (h : bs.length ≤ n) (out : Bytes) : From n out (.cont bs out) :=
  ⟨List.suffix_rfl, fun _ _ hr => by cases hr; exact h⟩

theorem From.later {n k : Nat} {out out' : Bytes} {r : Run} (h : From k out' r) (hk : k ≤ n) (hout : out <:+ out') :
    From n out r :=
  ⟨hout.trans h.out, fun rest o hr => (h.left rest o hr).trans hk⟩

theorem Grows.of_more (w : Bits) (r : Run) : Grows w r (r.more w) :=
  ⟨by cases r <;> exact List.suffix_rfl, fun _ => rfl⟩

theorem Grows.of_needMore (w : Bits) {n : Nat} {out : Bytes} {r : Run} (h : From n out r) :
    Grows w (.stop .needMore out) r :=
  ⟨h.out, fun hne => absurd rfl (hne out)⟩

end Run

/-! ## The data of a block (R327, R329) -/

theorem suffix_copyBack (distance n : Nat) (out : Bytes) : out <:+ copyBack distance n out := by
  induction n generalizing out with
  | zero => exact List.suffix_rfl
  | succ n ih => exact (List.suffix_cons _ out).trans (ih _)

theorem runCodes_from (lit dist : List Code) (fuel : Nat) (bs : Bits) (out : Bytes) :
    (runCodes lit dist fuel bs out).From bs.length out := by
  induction fuel generalizing bs out with
  | zero => exact .stop _ _ _
  | succ n ih =>
    unfold runCodes
    cases hitem : takeItem lit dist bs with
    | short => exact .stop _ _ _
    | bad => exact .stop _ _ _
    | got item rest =>
      have hrest : rest.length ≤ bs.length := (reads_takeItem lit dist).weaken.takes bs item rest hitem
      cases item with
      | literal b => exact (ih rest (b :: out)).later hrest (List.suffix_cons b out)
      | endOfBlock => exact .cont hrest out
      | copy length distance =>
        dsimp only
        split
        · exact .stop _ _ _
        · exact (ih rest _).later hrest (suffix_copyBack distance length out)

theorem runCodes_grows {lit dist : List Code} {fuel fuel' : Nat} {bs w : Bits} (out : Bytes) (hfuel : bs.length < fuel)
    (hfuel' : (bs ++ w).length < fuel') :
    (runCodes lit dist fuel bs out).Grows w (runCodes lit dist fuel' (bs ++ w) out) := by
  induction fuel generalizing bs out fuel' with
  | zero => omega
  | succ n ih =>
    obtain ⟨n', rfl⟩ : ∃ n', fuel' = n' + 1 := ⟨fuel' - 1, by omega⟩
    have hreads := reads_takeItem lit dist
    cases hitem : takeItem lit dist bs with
    | short =>
      rw [show runCodes lit dist (n + 1) bs out = .stop .needMore out by simp only [runCodes, hitem]]
      exact .of_needMore w (runCodes_from lit dist (n' + 1) (bs ++ w) out)
    | bad =>
      simp only [runCodes, hitem, hreads.keeps_bad w hitem]
      exact .of_more w _
    | got item rest =>
      have hrest : rest.length + 1 ≤ bs.length := hreads.takes bs item rest hitem
      rw [List.length_append] at hfuel'
      have hleft : (rest ++ w).length < n' := by rw [List.length_append]; omega
      simp only [runCodes, hitem, hreads.keeps_got w hitem]
      cases item with
      | literal b => exact ih (b :: out) (by omega) hleft
      | endOfBlock => exact .of_more w (.cont rest out)
      | copy length distance =>
        dsimp only
        split
        · exact .of_more w _
        · exact ih _ (by omega) hleft

theorem runStored_from (n : Nat) (bs : Bits) (out : Bytes) : (runStored n bs out).From bs.length out := by
  induction n generalizing bs out with
  | zero => exact .cont (Nat.le_refl _) out
  | succ n ih =>
    unfold runStored
    cases hbyte : takeInt 8 bs with
    | short => exact .stop _ _ _
    | bad => exact .stop _ _ _
    | got v rest =>
      exact (ih rest _).later ((reads_takeInt 8).weaken.takes bs v rest hbyte) (List.suffix_cons _ out)

theorem runStored_grows (n : Nat) (bs w : Bits) (out : Bytes) : (runStored n bs out).Grows w (runStored n (bs ++ w) out) := by
  induction n generalizing bs out with
  | zero => exact .of_more w (.cont bs out)
  | succ n ih =>
    have hreads := reads_takeInt 8
    cases hbyte : takeInt 8 bs with
    | short =>
      rw [show runStored (n + 1) bs out = .stop .needMore out by simp only [runStored, hbyte]]
      exact .of_needMore w (runStored_from (n + 1) (bs ++ w) out)
    | bad =>
      simp only [runStored, hbyte, hreads.keeps_bad w hbyte]
      exact .of_more w _
    | got v rest =>
      simp only [runStored, hbyte, hreads.keeps_got w hbyte]
      exact ih rest _

theorem runStoredBlock_eq (bs : Bits) (out : Bytes) :
    runStoredBlock bs out =
      match takeStoredLens (alignByte bs) with
      | .short => .stop .needMore out
      | .bad => .stop .error out
      | .got (len, nlen) bs2 => if len + nlen = 0xFFFF then runStored len bs2 out else .stop .error out := rfl

theorem runStoredBlock_from (bs : Bits) (out : Bytes) : (runStoredBlock bs out).From bs.length out := by
  rw [runStoredBlock_eq]
  cases hlens : takeStoredLens (alignByte bs) with
  | short => exact .stop _ _ _
  | bad => exact .stop _ _ _
  | got lens rest =>
    have hrest : rest.length ≤ (alignByte bs).length := reads_takeStoredLens.takes _ lens rest hlens
    dsimp only
    split
    · exact (runStored_from _ rest out).later (hrest.trans (length_alignByte_le bs)) List.suffix_rfl
    · exact .stop _ _ _

/-- The length of a stored block stands at a byte boundary, so the bits that come are whole bytes. -/
theorem runStoredBlock_grows {w : Bits} (hw : 8 ∣ w.length) (bs : Bits) (out : Bytes) :
    (runStoredBlock bs out).Grows w (runStoredBlock (bs ++ w) out) := by
  have hreads := reads_takeStoredLens
  cases hlens : takeStoredLens (alignByte bs) with
  | short =>
    rw [show runStoredBlock bs out = .stop .needMore out by simp only [runStoredBlock_eq, hlens]]
    exact .of_needMore w (runStoredBlock_from (bs ++ w) out)
  | bad =>
    simp only [runStoredBlock_eq, alignByte_append hw, hlens, hreads.keeps_bad w hlens]
    exact .of_more w _
  | got lens rest =>
    simp only [runStoredBlock_eq, alignByte_append hw, hlens, hreads.keeps_got w hlens]
    split
    · exact runStored_grows _ rest w out
    · exact .of_more w _

theorem runBlock_from (btype : Nat) (bs : Bits) (out : Bytes) : (runBlock btype bs out).From bs.length out := by
  match btype with
  | 0 => exact runStoredBlock_from bs out
  | 1 => exact runCodes_from _ _ _ bs out
  | 2 =>
    unfold runBlock
    cases hlens : takeDynamic bs with
    | short => exact .stop _ _ _
    | bad => exact .stop _ _ _
    | got lens rest => exact (runCodes_from _ _ _ rest out).later (reads_takeDynamic.takes bs lens rest hlens) List.suffix_rfl
  | _ + 3 => exact .stop _ _ _

theorem runBlock_grows {w : Bits} (hw : 8 ∣ w.length) (btype : Nat) (bs : Bits) (out : Bytes) :
    (runBlock btype bs out).Grows w (runBlock btype (bs ++ w) out) := by
  match btype with
  | 0 => exact runStoredBlock_grows hw bs out
  | 1 => exact runCodes_grows out (Nat.lt_succ_self _) (Nat.lt_succ_self _)
  | 2 =>
    cases hlens : takeDynamic bs with
    | short =>
      rw [show runBlock 2 bs out = .stop .needMore out by simp only [runBlock, hlens]]
      exact .of_needMore w (runBlock_from 2 (bs ++ w) out)
    | bad =>
      simp only [runBlock, hlens, reads_takeDynamic.keeps_bad w hlens]
      exact .of_more w _
    | got lens rest =>
      simp only [runBlock, hlens, reads_takeDynamic.keeps_got w hlens]
      exact runCodes_grows out (Nat.lt_succ_self _) (Nat.lt_succ_self _)
  | _ + 3 => exact .of_more w (.stop .error out)

/-! ## The blocks (R327) -/

theorem runBlocks_from (fuel : Nat) (bs : Bits) (out : Bytes) : (runBlocks fuel bs out).From bs.length out := by
  induction fuel generalizing bs out with
  | zero => exact .stop _ _ _
  | succ n ih =>
    unfold runBlocks
    cases hheader : takeBlockHeader bs with
    | short => exact .stop _ _ _
    | bad => exact .stop _ _ _
    | got header rest =>
      have hrest : rest.length ≤ bs.length := reads_takeBlockHeader.weaken.takes bs header rest hheader
      have hblock := (runBlock_from header.2 rest out).later hrest List.suffix_rfl
      dsimp only
      cases hrun : runBlock header.2 rest out with
      | stop st out1 => rwa [hrun] at hblock
      | cont bs2 out1 =>
        rw [hrun] at hblock
        dsimp only
        split
        · exact hblock
        · exact (ih bs2 out1).later (hblock.left bs2 out1 rfl) hblock.out

theorem runBlocks_grows {fuel fuel' : Nat} {bs w : Bits} (hw : 8 ∣ w.length) (out : Bytes) (hfuel : bs.length < fuel)
    (hfuel' : (bs ++ w).length < fuel') : (runBlocks fuel bs out).Grows w (runBlocks fuel' (bs ++ w) out) := by
  induction fuel generalizing bs out fuel' with
  | zero => omega
  | succ n ih =>
    obtain ⟨n', rfl⟩ : ∃ n', fuel' = n' + 1 := ⟨fuel' - 1, by omega⟩
    cases hheader : takeBlockHeader bs with
    | short =>
      rw [show runBlocks (n + 1) bs out = .stop .needMore out by simp only [runBlocks, hheader]]
      exact .of_needMore w (runBlocks_from (n' + 1) (bs ++ w) out)
    | bad =>
      simp only [runBlocks, hheader, reads_takeBlockHeader.keeps_bad w hheader]
      exact .of_more w _
    | got header rest =>
      have hrest : rest.length + 1 ≤ bs.length := reads_takeBlockHeader.takes bs header rest hheader
      have hblock := runBlock_grows hw header.2 rest out
      have hcont := (runBlock_from header.2 rest out).left
      simp only [runBlocks, hheader, reads_takeBlockHeader.keeps_got w hheader]
      cases hrun : runBlock header.2 rest out with
      | stop st out1 =>
        rw [hrun] at hblock
        refine ⟨hblock.out.trans ?later, fun hdecided => ?same⟩
        case later =>
          cases runBlock header.2 (rest ++ w) out with
          | stop st2 out2 => exact List.suffix_rfl
          | cont bs2 out2 =>
            dsimp only
            split
            · exact List.suffix_rfl
            · exact (runBlocks_from _ _ _).out
        case same => simp only [hblock.decided hdecided, Run.more]
      | cont bs2 out1 =>
        rw [hrun] at hblock
        have hleft : bs2.length ≤ rest.length := hcont bs2 out1 hrun
        rw [List.length_append] at hfuel'
        simp only [hblock.decided (fun _ h => by cases h), Run.more]
        split
        · exact .of_more w (.cont bs2 out1)
        · exact ih out1 (by omega) (by rw [List.length_append]; omega)

/-! ## The container (R326, R332) -/

theorem checkTrailer_out (bs : Bits) (out : Bytes) : (checkTrailer bs out).out = out := by
  unfold checkTrailer
  split
  · rfl
  · rfl
  · split <;> rfl

theorem checkTrailer_append {bs w : Bits} {out : Bytes} (hw : 8 ∣ w.length) (h : (checkTrailer bs out).status ≠ .needMore) :
    checkTrailer (bs ++ w) out = checkTrailer bs out := by
  unfold checkTrailer at h ⊢
  rw [alignByte_append hw]
  cases htrailer : takeTrailer (alignByte bs) with
  | short => rw [htrailer] at h; exact absurd rfl h
  | bad => rw [reads_takeTrailer.keeps_bad w htrailer]
  | got v rest => rw [reads_takeTrailer.keeps_got w htrailer]

/-- What the run over the blocks comes to: the trailer is checked after the final one. -/
def Run.close : Run → Inflated
  | .stop st out => { out := out.reverse, status := st }
  | .cont bs out => checkTrailer bs out.reverse

theorem Run.close_out (r : Run) : r.close.out = r.out.reverse := by
  cases r with
  | stop st out => rfl
  | cont bs out => exact checkTrailer_out bs out.reverse

theorem Run.Grows.close_eq {w : Bits} {r r' : Run} (h : r.Grows w r') (hw : 8 ∣ w.length)
    (hstatus : r.close.status ≠ .needMore) : r'.close = r.close := by
  rw [h.decided fun o hstop => hstatus (by rw [hstop]; rfl)]
  cases r with
  | stop st out => rfl
  | cont bs out => exact checkTrailer_append hw hstatus

theorem inflate_of_header {z : Bytes} {u : Unit} {bs : Bits} (h : takeHeader (bitStream z) = .got u bs) :
    inflate z = (runBlocks (bs.length + 1) bs []).close := by
  simp only [inflate, h]
  cases runBlocks (bs.length + 1) bs [] <;> rfl

/-- Settles O32: the header is read as before, and the run over the blocks grows. -/
theorem inflateIsMonotone : Obligations.InflateIsMonotone := by
  intro z w
  have hw := eight_dvd_length_bitStream w
  have hreads := reads_takeHeader
  cases hheader : takeHeader (bitStream z) with
  | short =>
    rw [show inflate z = ⟨[], .needMore⟩ by simp only [inflate, hheader]]
    exact ⟨List.nil_prefix, fun h => absurd rfl h⟩
  | bad =>
    have hmore := hreads.keeps_bad (bitStream w) hheader
    rw [← bitStream_append] at hmore
    rw [show inflate z = ⟨[], .error⟩ by simp only [inflate, hheader],
      show inflate (z ++ w) = ⟨[], .error⟩ by simp only [inflate, hmore]]
    exact ⟨List.prefix_rfl, fun _ => rfl⟩
  | got u bs =>
    have hgrows := runBlocks_grows hw [] (Nat.lt_succ_self bs.length) (Nat.lt_succ_self (bs ++ bitStream w).length)
    have hmore := hreads.keeps_got (bitStream w) hheader
    rw [← bitStream_append] at hmore
    rw [inflate_of_header hheader, inflate_of_header hmore, Run.close_out, Run.close_out]
    exact ⟨List.reverse_prefix.2 hgrows.out, hgrows.close_eq hw⟩

end Sys2Proof.Machine
end

section
/-! PROOFS. The output of ZLIB (46_zlib.md R243, R245): what pieces of input make decodable, and the buffer through which it
goes to memory. -/

namespace Sys2Proof.Machine

/-! ## The output of pieces of input -/

theorem inflate_prefix (z w : Bytes) : (inflate z).out <+: (inflate (z ++ w)).out := (inflateIsMonotone z w).1

theorem inflate_decided {z : Bytes} (h : (inflate z).status ≠ .needMore) (w : Bytes) : inflate (z ++ w) = inflate z :=
  (inflateIsMonotone z w).2 h

theorem zlibNew_nil {z : ZlibSession} (h : z.Wf) : zlibNew z [] = [] := by
  rw [zlibNew, List.append_nil, h.1, List.drop_length]

/-- The output of a longer input is that of its beginning, and then what the rest adds. -/
theorem zlibNew_append {z : ZlibSession} (h : z.Wf) (a b : Bytes) :
    zlibNew z (a ++ b) = zlibNew z a ++ zlibNew (zlibFed z a) b := by
  obtain ⟨r, hr⟩ := inflate_prefix (z.zin ++ a) b
  have hle : z.zout ≤ (inflate (z.zin ++ a)).out.length := h.1 ▸ (inflate_prefix z.zin a).length_le
  simp only [zlibNew, zlibFed]
  rw [← List.append_assoc, ← hr, List.drop_append_of_le_length hle, List.drop_left]

/-! ## The buffer (R245) -/

/-- The transfer context of ZLIB: no bound on what it may write (R243). -/
abbrev zlibXfer (src : Source) (dst : Place) : Xfer := xferOf src dst none false

theorem zlibEmit_append (a b obuf : Bytes) (x : Xfer) (s : State) :
    zlibEmit (a ++ b) obuf x s = (zlibEmit a obuf x s).andThen fun q t => zlibEmit b q.1 q.2 t := by
  induction a generalizing obuf x s with
  | nil => rfl
  | cons c a ih =>
    rw [List.cons_append, zlibEmit, zlibEmit]
    split
    · cases xferWrite x (obuf ++ [c]) s with
      | ok y t => exact ih [] y t
      | raise k t => rfl
    · exact ih _ x s

/-- Less than a buffer is only kept. -/
theorem zlibEmit_buffered {a obuf : Bytes} (x : Xfer) (s : State) (h : (obuf ++ a).length < 4096) :
    zlibEmit a obuf x s = .ok (obuf ++ a, x) s := by
  induction a generalizing obuf with
  | nil => rw [List.append_nil]; rfl
  | cons c a ih =>
    rw [List.append_cons] at h ⊢
    have hroom : (obuf ++ [c]).length ≠ zlibOutBuf := Nat.ne_of_lt (show _ < 4096 by rw [List.length_append] at h; omega)
    rw [zlibEmit, if_neg hroom, ih h]

/-- Bytes that stand in the buffer go to memory as if they came now. -/
theorem zlibEmit_rebuffer {obuf : Bytes} (v : Bytes) (x : Xfer) (s : State) (h : obuf.length < 4096) :
    zlibEmit v obuf x s = zlibEmit (obuf ++ v) [] x s := by
  rw [zlibEmit_append, zlibEmit_buffered (obuf := []) x s h]
  rfl

/-- A full buffer is written at once. -/
theorem zlibEmit_full {v : Bytes} (x : Xfer) (s : State) (h : 4096 ≤ v.length) :
    zlibEmit v [] x s = (xferWrite x (v.take 4096) s).andThen fun y t => zlibEmit (v.drop 4096) [] y t := by
  have hlast : 4095 < v.length := by omega
  have hroom : (v.take 4095).length = 4095 := List.length_take_of_le hlast.le
  have hbuffer : v.take 4095 ++ [v[4095]] = v.take 4096 := List.take_append_getElem hlast
  have hfull : (v.take 4095 ++ [v[4095]]).length = zlibOutBuf := by rw [hbuffer]; exact List.length_take_of_le h
  calc zlibEmit v [] x s
      = zlibEmit (v.take 4095 ++ v[4095] :: v.drop 4096) [] x s := by
        rw [← List.drop_eq_getElem_cons hlast, List.take_append_drop]
    _ = zlibEmit (v[4095] :: v.drop 4096) (v.take 4095) x s := by
        rw [zlibEmit_append, zlibEmit_buffered (obuf := []) x s (by rw [List.nil_append]; omega)]
        rfl
    _ = (xferWrite x (v.take 4096) s).andThen fun y t => zlibEmit (v.drop 4096) [] y t := by
        rw [zlibEmit, if_pos hfull, hbuffer]

theorem Place.past_past (d : Place) (n k : Nat) : (d.past n).past k = d.past (n + k) := by
  simp only [Place.past, Nat.add_assoc]

section Buffers
variable {src : Source} {dst : Place} {s : State} {v : Bytes} (hw : s.MemoryWf)
include hw

/-- Served buffers are written one after the other. -/
theorem zlibEmit_buffers {j : Nat} (hj : 4096 * j ≤ v.length) (hdst : s.serves dst.mt dst.addr (4096 * j) = true) :
    ∃ t, zlibEmit v [] (zlibXfer src dst) s =
        zlibEmit (v.drop (4096 * j)) [] (zlibXfer src (dst.past (4096 * j))) t ∧
      Wrote s t dst (v.take (4096 * j)) := by
  induction j with
  | zero => exact ⟨s, rfl, .nil s dst⟩
  | succ j ih =>
    obtain ⟨t, hemit, hbefore⟩ := ih (by omega) (State.serves_mono hdst (Nat.le_refl _) (by omega))
    have hbuffer : ((v.drop (4096 * j)).take 4096).length = 4096 :=
      List.length_take_of_le (by rw [List.length_drop]; omega)
    have hlen : (v.take (4096 * j)).length = 4096 * j := List.length_take_of_le (by omega)
    have hserved : t.serves dst.mt (dst.addr + 4096 * j) 4096 = true := by
      rw [hbefore.moved.serves]
      exact State.serves_mono hdst (Nat.le_add_right _ _) (by omega)
    obtain ⟨u, hwrite, hlast⟩ := xferWrite_wrote (x := zlibXfer src (dst.past (4096 * j))) (hbefore.moved.wf hw) rfl
      (List.ne_nil_of_length_pos (by rw [hbuffer]; decide)) rfl (by rw [hbuffer]; exact hserved)
    refine ⟨u, ?_, ?_⟩
    · rw [hemit, zlibEmit_full _ t (by rw [List.length_drop]; omega), hwrite, hbuffer, List.drop_drop, Nat.mul_succ,
        ← Place.past_past]
      rfl
    · rw [Nat.mul_succ, List.take_add]
      refine hbefore.above ?_
      rw [hlen]
      exact hlast

/-- With its full buffers served the output is written but for the last bytes, which fill no buffer. -/
theorem zlibEmit_served {m : Nat} (hm : m = v.length / 4096 * 4096) (hdst : s.serves dst.mt dst.addr m = true) :
    ∃ t, zlibEmit v [] (zlibXfer src dst) s = .ok (v.drop m, zlibXfer src (dst.past m)) t ∧ Wrote s t dst (v.take m) := by
  obtain rfl : m = 4096 * (v.length / 4096) := by omega
  obtain ⟨t, hemit, hwrote⟩ := zlibEmit_buffers (src := src) (v := v) hw (by omega) hdst
  refine ⟨t, ?_, hwrote⟩
  rw [hemit, zlibEmit_buffered (obuf := [])]
  · rfl
  · rw [List.nil_append, List.length_drop]
    omega

/-- A full buffer that is refused raises with the buffers before it written. -/
theorem zlibEmit_refused {j k : Nat} (hk : k = 4096 * j) (hfull : k + 4096 ≤ v.length)
    (hdst : s.serves dst.mt dst.addr k = true) (hrefused : s.serves dst.mt (dst.addr + k) 4096 = false) :
    ∃ e t, zlibEmit v [] (zlibXfer src dst) s = .raise e t ∧ Wrote s t dst (v.take k) := by
  subst hk
  obtain ⟨t, hemit, hwrote⟩ := zlibEmit_buffers (src := src) (v := v) hw (by omega) hdst
  have hrest : 4096 ≤ (v.drop (4096 * j)).length := by rw [List.length_drop]; omega
  have hbuffer : ((v.drop (4096 * j)).take 4096).length = 4096 := List.length_take_of_le hrest
  have hwrite := xferWrite_of_not_serves (x := zlibXfer src (dst.past (4096 * j))) (s := t)
    (v := (v.drop (4096 * j)).take 4096) rfl (List.ne_nil_of_length_pos (by rw [hbuffer]; decide)) rfl
    (by rw [hbuffer, hwrote.moved.serves]; exact hrefused)
  exact ⟨_, t, by rw [hemit, zlibEmit_full _ t hrest, hwrite]; rfl, hwrote⟩

/-- Output that was taken was served. -/
theorem serves_of_zlibEmit_ok {q : Bytes × Xfer} {t : State} (h : zlibEmit v [] (zlibXfer src dst) s = .ok q t) {j : Nat}
    (hj : 4096 * j ≤ v.length) : s.serves dst.mt dst.addr (4096 * j) = true := by
  induction j with
  | zero => rfl
  | succ j ih =>
    have hbefore := ih (by omega)
    cases hbuffer : s.serves dst.mt (dst.addr + 4096 * j) 4096 with
    | true => exact State.serves_append hbefore hbuffer
    | false =>
      obtain ⟨e, u, hraise, -⟩ := zlibEmit_refused (src := src) hw rfl (by omega) hbefore hbuffer
      cases hraise.symm.trans h

/-- Everything that output which was taken has done. -/
theorem zlibEmit_ok {q : Bytes × Xfer} {t : State} {m : Nat} (h : zlibEmit v [] (zlibXfer src dst) s = .ok q t)
    (hm : m = v.length / 4096 * 4096) :
    s.serves dst.mt dst.addr m = true ∧ q = (v.drop m, zlibXfer src (dst.past m)) ∧ Wrote s t dst (v.take m) := by
  have hserved : s.serves dst.mt dst.addr m = true := by
    rw [hm, Nat.mul_comm]
    exact serves_of_zlibEmit_ok hw h (by omega)
  obtain ⟨u, hemit, hwrote⟩ := zlibEmit_served (src := src) hw hm hserved
  cases hemit.symm.trans h
  exact ⟨hserved, rfl, hwrote⟩

end Buffers

/-- A write does not look at the source. -/
theorem xferWrite_any_source (v : Bytes) (dst : Place) (s : State) :
    (∃ t, ∀ x : Source, xferWrite (zlibXfer x dst) v s = .ok (zlibXfer x (dst.past v.length)) t) ∨
      ∃ e, ∀ x : Source, xferWrite (zlibXfer x dst) v s = .raise e s := by
  cases hwrite : memWrite s dst.mt dst.addr v with
  | ok t => exact .inl ⟨t, fun x => by simp [xferWrite, xferOf, Xfer.fits, Xfer.spend, Place.past, hwrite]⟩
  | error e => exact .inr ⟨e, fun x => by simp [xferWrite, xferOf, Xfer.fits, hwrite]⟩

/-- Output does not look at the source: reading it may come before or after. -/
theorem zlibEmit_past (v obuf : Bytes) (src : Source) (k : Nat) (dst : Place) (s : State) :
    zlibEmit v obuf (zlibXfer (src.past k) dst) s =
      (zlibEmit v obuf (zlibXfer src dst) s).andThen fun q t => .ok (q.1, q.2.advanced k) t := by
  induction v generalizing obuf dst s with
  | nil => rfl
  | cons c v ih =>
    rw [zlibEmit, zlibEmit]
    split
    · rcases xferWrite_any_source (obuf ++ [c]) dst s with ⟨t, hwrite⟩ | ⟨e, hwrite⟩
      · rw [hwrite, hwrite]
        exact ih [] _ t
      · rw [hwrite, hwrite]
        rfl
    · exact ih _ dst s

end Sys2Proof.Machine
end

section
/-! PROOFS. The ZLIB loop (46_zlib.md R243, R250): however its pieces fall, it puts out what the whole of its input makes
decodable. -/

namespace Sys2Proof.Machine

theorem zlibLoop_stops (fuel : Nat) {z : ZlibSession} (obuf : Bytes) {x : Xfer} (s : State)
    (h : x.rdLeft = 0 ∨ (inflate z.zin).status = .done) : zlibLoop fuel z obuf x s = .ok (z, obuf, x) s := by
  cases fuel with
  | zero => rfl
  | succ n => exact if_pos h

/-- What follows the output `q` of input whose decoding has come to `st`, when `m` source bytes were read: an error, or the
loop with the session `y`. -/
def zlibResume (st : InfStatus) (fuel : Nat) (y : ZlibSession) (m : Nat) (q : Bytes × Xfer) (s : State) :
    Res (ZlibSession × Bytes × Xfer) :=
  if st = .error then .raise .engineError s else zlibLoop fuel y q.1 (q.2.advanced m) s

/-- It makes no difference whether source bytes are read before the output or after it. -/
theorem zlibEmit_past_resume (v obuf : Bytes) (src : Source) (k : Nat) (dst : Place) (s : State) (st : InfStatus) (fuel : Nat)
    (y : ZlibSession) (m : Nat) :
    (zlibEmit v obuf (zlibXfer (src.past k) dst) s).andThen (zlibResume st fuel y m) =
      (zlibEmit v obuf (zlibXfer src dst) s).andThen (zlibResume st fuel y (k + m)) := by
  rw [zlibEmit_past]
  cases zlibEmit v obuf (zlibXfer src dst) s with
  | ok q t => simp only [Res.andThen, zlibResume, Xfer.advanced_advanced]
  | raise e t => rfl

section Turn
variable {fuel : Nat} {z : ZlibSession} {obuf : Bytes} {src : Source} {dst : Place} {s : State} {k : Nat}
  (hsome : src.cbSrc ≠ 0) (hk : k = min 4096 src.cbSrc) (hmore : (inflate z.zin).status = .needMore)
include hsome hk hmore

theorem zlibLoop_turn :
    zlibLoop (fuel + 1) z obuf (zlibXfer src dst) s =
      (Res.ofRead s (xferRead (zlibXfer src dst) k s)).andThen fun p s1 =>
        (zlibEmit (zlibNew z p.1) obuf p.2 s1).andThen
          (zlibResume (inflate (z.zin ++ p.1)).status fuel (zlibFed z p.1) 0) := by
  subst hk
  exact if_neg (not_or.2 ⟨hsome, by rw [hmore]; decide⟩)

/-- A turn of the loop with a piece `a` that is served. -/
theorem zlibLoop_read {a : Bytes} (ha : a = s.bytesAt src.mt src.addr k) (hsrc : s.serves src.mt src.addr k = true) :
    zlibLoop (fuel + 1) z obuf (zlibXfer src dst) s =
      (zlibEmit (zlibNew z a) obuf (zlibXfer src dst) s).andThen
        (zlibResume (inflate (z.zin ++ a)).status fuel (zlibFed z a) k) := by
  have hread : xferRead (zlibXfer src dst) k s = .ok (a, zlibXfer (src.past k) dst) := by
    rw [ha]
    exact xferRead_of_serves (by omega) (show k ≤ src.cbSrc by omega) hsrc
  rw [zlibLoop_turn hsome hk hmore, hread]
  exact zlibEmit_past_resume (zlibNew z a) obuf src k dst s _ fuel (zlibFed z a) 0

theorem zlibLoop_source_refused (hsrc : s.serves src.mt src.addr k = false) :
    ∃ e, zlibLoop (fuel + 1) z obuf (zlibXfer src dst) s = .raise e s := by
  have hread := xferRead_of_not_serves (x := zlibXfer src dst) (by omega) (show k ≤ src.cbSrc by omega) hsrc
  exact ⟨_, by rw [zlibLoop_turn hsome hk hmore, hread]; rfl⟩

end Turn

/-! ## The whole of the input -/

/-- The first `p` bytes of `src`, `input`, are served and end with a piece; they are to be fed to the session `z`, which waits
for more, with `obuf` in the buffer. They are read as they stand: they are one piece, or the `c` bytes at `dst` that are written at
most do not overlap them. -/
structure ZlibFeed (src : Source) (dst : Place) (s : State) (p c : Nat) (z : ZlibSession) (obuf input : Bytes) : Prop where
  session : z.Wf
  more : (inflate z.zin).status = .needMore
  room : obuf.length < 4096
  memory : s.MemoryWf
  within : p ≤ src.cbSrc
  cut : p = src.cbSrc ∨ 4096 ∣ p
  served : s.serves src.mt src.addr p = true
  bytes : input = s.bytesAt src.mt src.addr p
  kept : p ≤ 4096 ∨ sourceDisjoint { src with cbSrc := p } dst c = true
  bound : ∀ w, 4096 ∣ w → w ≤ (obuf ++ zlibNew z input).length → s.serves dst.mt dst.addr w = true → w ≤ c

/-- The session `y` after the first `p` bytes of `src`, `input`, were fed to `z` and `m` bytes were read, with `f` turns of the
loop left: it has decoded as much as all of `input`, and only a stream that is decided leaves some of it unread (R250). -/
structure ZlibFedTo (src : Source) (p : Nat) (z : ZlibSession) (input : Bytes) (f : Nat) (y : ZlibSession) (m : Nat) :
    Prop where
  same : inflate y.zin = inflate (z.zin ++ input)
  onePiece : p ≤ 4096 → y.zin = z.zin ++ input
  waiting : (inflate y.zin).status = .needMore → m = p ∧ src.cbSrc - p ≤ f

theorem sourceDisjoint_past {src : Source} {dst : Place} {k p w c : Nat} (hk : k ≤ p) (hw : w ≤ c)
    (h : sourceDisjoint { src with cbSrc := p } dst c = true) :
    sourceDisjoint { src.past k with cbSrc := p - k } (dst.past w) (c - w) = true := by
  simp only [sourceDisjoint, Source.past, Place.past, Bool.or_eq_true, decide_eq_true_eq, min_le_iff, le_max_iff] at h ⊢
  exact h.imp_right fun hapart => by omega

namespace ZlibFeed
variable {src : Source} {dst : Place} {s : State} {p c : Nat} {z : ZlibSession} {obuf input : Bytes}

/-- The source bytes past the first piece stand as before when output has been written. -/
theorem source_kept (h : ZlibFeed src dst s p c z obuf input) {t : State} {v : Bytes} {k : Nat} (hk : k = min 4096 p)
    (hv : v.length ≤ c) (hwrote : Wrote s t dst v) :
    t.bytesAt src.mt (src.addr + k) (p - k) = s.bytesAt src.mt (src.addr + k) (p - k) := by
  refine State.bytesAt_congr fun x hlo hhi => hwrote.sameOutside src.mt x fun hmt => ?_
  have hkept := h.kept
  simp only [sourceDisjoint, hmt, bne_self_eq_false, Bool.false_or, decide_eq_true_eq] at hkept
  omega

/-- What is left to feed when the output of the first piece, `a`, was taken. -/
theorem past {k : Nat} {a b : Bytes} {q : Bytes × Xfer} {t : State} (h : ZlibFeed src dst s p c z obuf (a ++ b))
    (hk : k = min 4096 p) (hb : b = s.bytesAt src.mt (src.addr + k) (p - k))
    (hmore : (inflate (z.zin ++ a)).status = .needMore)
    (hemit : zlibEmit (zlibNew z a) obuf (zlibXfer src dst) s = .ok q t) :
    ∃ w rest, q = (rest, zlibXfer src (dst.past w)) ∧
      ZlibFeed (src.past k) (dst.past w) t (p - k) (c - w) (zlibFed z a) rest b := by
  obtain ⟨w, hw⟩ : ∃ w, w = (obuf ++ zlibNew z a).length / 4096 * 4096 := ⟨_, rfl⟩
  obtain ⟨hserved, rfl, hwrote⟩ := zlibEmit_ok h.memory ((zlibEmit_rebuffer _ _ _ h.room).symm.trans hemit) hw
  have hrest : ((obuf ++ zlibNew z a).drop w).length = (obuf ++ zlibNew z a).length - w := List.length_drop
  have hout : (obuf ++ zlibNew z (a ++ b)).length =
      w + ((obuf ++ zlibNew z a).drop w ++ zlibNew (zlibFed z a) b).length := by
    rw [zlibNew_append h.session, ← List.append_assoc, List.length_append, List.length_append (as := List.drop _ _)]
    omega
  have hwc : w ≤ c := h.bound w (by omega) (by rw [hout]; omega) hserved
  have htake : ((obuf ++ zlibNew z a).take w).length ≤ c := (List.length_take_le _ _).trans hwc
  have hcut := h.cut
  have hwithin := h.within
  refine ⟨w, _, rfl, ?_⟩
  exact {
    session := ⟨rfl, by rw [zlibFed, hmore]; decide⟩
    more := hmore
    room := by omega
    memory := hwrote.moved.wf h.memory
    within := Nat.sub_le_sub_right hwithin k
    cut := show p - k = src.cbSrc - k ∨ _ by omega
    served := by
      rw [hwrote.moved.serves]
      exact State.serves_mono h.served (Nat.le_add_right _ _) (show src.addr + k + _ ≤ _ by omega)
    bytes := hb.trans (h.source_kept hk htake hwrote).symm
    kept := h.kept.imp (fun _ => by omega) (sourceDisjoint_past (by omega) hwc)
    bound := fun w' hdvd hle hserved' => by
      rw [hwrote.moved.serves] at hserved'
      have hboth := h.bound (w + w') (by omega) (by rw [hout]; omega) (State.serves_append hserved hserved')
      omega }

theorem emits_nothing {fuel : Nat} (h : ZlibFeed src dst s 0 c z obuf input) (hfuel : src.cbSrc ≤ fuel) :
    ∃ f y m, ZlibFedTo src 0 z input f y m ∧
      zlibLoop fuel z obuf (zlibXfer src dst) s =
        (zlibEmit (zlibNew z input) obuf (zlibXfer src dst) s).andThen
          (zlibResume (inflate (z.zin ++ input)).status f y m) := by
  obtain rfl : input = [] := h.bytes
  have hzin : z.zin = z.zin ++ [] := (List.append_nil z.zin).symm
  refine ⟨fuel, z, 0, ⟨congrArg inflate hzin, fun _ => hzin, fun _ => ⟨rfl, hfuel⟩⟩, ?_⟩
  rw [zlibNew_nil h.session, ← hzin, h.more]
  rfl

/-- However its pieces fall, the loop puts out what the whole input makes decodable, and then goes on. -/
theorem emits {fuel : Nat} (h : ZlibFeed src dst s p c z obuf input) (hfuel : src.cbSrc ≤ fuel) :
    ∃ f y m, ZlibFedTo src p z input f y m ∧
      zlibLoop fuel z obuf (zlibXfer src dst) s =
        (zlibEmit (zlibNew z input) obuf (zlibXfer src dst) s).andThen
          (zlibResume (inflate (z.zin ++ input)).status f y m) := by
  induction fuel generalizing z obuf input src dst s p c with
  | zero =>
    obtain rfl : p = 0 := Nat.le_zero.1 (h.within.trans hfuel)
    exact h.emits_nothing hfuel
  | succ n ih =>
    rcases Nat.eq_zero_or_pos p with rfl | hpos
    · exact h.emits_nothing hfuel
    have hcut := h.cut
    have hwithin := h.within
    obtain ⟨k, hk⟩ : ∃ k, k = min 4096 src.cbSrc := ⟨_, rfl⟩
    have hkp : k = min 4096 p := by omega
    obtain ⟨a, ha⟩ : ∃ a, a = s.bytesAt src.mt src.addr k := ⟨_, rfl⟩
    obtain ⟨b, hb⟩ : ∃ b, b = s.bytesAt src.mt (src.addr + k) (p - k) := ⟨_, rfl⟩
    obtain rfl : input = a ++ b := by
      rw [h.bytes, ha, hb, ← State.bytesAt_append, Nat.add_sub_cancel' (by omega)]
    have hturn := zlibLoop_read (fuel := n) (obuf := obuf) (dst := dst) (by omega) hk h.more ha
      (State.serves_mono h.served (Nat.le_refl _) (by omega))
    by_cases hmore : (inflate (z.zin ++ a)).status = .needMore
    case neg =>
      have hsame : inflate (z.zin ++ (a ++ b)) = inflate (z.zin ++ a) := by
        rw [← List.append_assoc]
        exact inflate_decided hmore b
      have hnew : zlibNew z (a ++ b) = zlibNew z a := by rw [zlibNew, hsame, zlibNew]
      refine ⟨n, zlibFed z a, k, ⟨hsame.symm, fun hone => ?_, fun h => absurd h hmore⟩, by rw [hturn, hsame, hnew]⟩
      rw [hb, show p - k = 0 by omega]
      exact congrArg (z.zin ++ ·) (List.append_nil a).symm
    case pos =>
      cases hemit : zlibEmit (zlibNew z a) obuf (zlibXfer src dst) s with
      | raise e t =>
        refine ⟨src.cbSrc, ⟨z.zin ++ (a ++ b), 0⟩, p, ⟨rfl, fun _ => rfl, fun _ => ⟨rfl, Nat.sub_le _ _⟩⟩, ?_⟩
        rw [hturn, zlibNew_append h.session, zlibEmit_append, hemit]
        rfl
      | ok q t =>
        obtain ⟨w, rest, rfl, hrest⟩ := h.past hkp hb hmore hemit
        obtain ⟨f, y, m, ⟨hsame, hone, hwaiting⟩, hloop⟩ := ih hrest (show src.cbSrc - k ≤ n by omega)
        have hfed : (zlibFed z a).zin ++ b = z.zin ++ (a ++ b) := List.append_assoc ..
        rw [hfed] at hsame hone hloop
        refine ⟨f, y, k + m, ⟨hsame, fun _ => hone (by omega), fun hstatus => ?_⟩, ?_⟩
        · obtain ⟨rfl, hleft⟩ := hwaiting hstatus
          have hleft' : src.cbSrc - k - (p - k) ≤ f := hleft
          omega
        · have hresumed : zlibLoop (n + 1) z obuf (zlibXfer src dst) s =
              zlibLoop n (zlibFed z a) rest (zlibXfer (src.past k) (dst.past w)) t := by
            rw [hturn, hemit, hmore]
            rfl
          rw [hresumed, hloop, zlibEmit_past_resume, zlibNew_append h.session, zlibEmit_append, hemit]
          rfl

end ZlibFeed

end Sys2Proof.Machine
end

section
/-! PROOFS. The ZLIB command (46_zlib.md R243 to R250): what it leaves when it completes and when it raises. -/

namespace Sys2Proof.Machine

/-! ## The ends of a command that also wrote the zlib session -/

/-- Whatever the zlib session is, a write does the same. -/
theorem Wrote.setZlib {s t : State} {d : Place} {v : Bytes} (h : Wrote s t d v) (y : Option ZlibSession) :
    Wrote (s.setZlib y) (t.setZlib y) d v where
  moved := ⟨by rw [h.moved.rest]; rfl, h.moved.wf⟩
  count := h.count
  bytes m x := by
    have hbyte (u : State) : (u.setZlib y).byteAt m x = u.byteAt m x := by cases m <;> rfl
    rw [hbyte, hbyte, h.bytes]

/-- What a command leaves, the registers apart, that cleared the counter, wrote the `n` bytes `v` at `d` and then made `y` the
zlib session. -/
structure EndOfZlib (s t : State) (d : Place) (n : Nat) (v : Bytes) (y : Option ZlibSession) : Prop where
  sha : t.sha = s.sha
  aes : t.aes = s.aes
  zlib : t.zlib = y
  freeCount : t.freeCount = s.freeCount
  sameOutside : SameOutside s t d n
  cbWrittenLast : t.cbWrittenLast = writtenAfter d n
  bytesAt : t.bytesAt d.mt d.addr n = v

section Ends
variable {fl : MsgFlags} {src : Source} {dst : Place} {s t u : State} {v : Bytes} {n : Nat} {y : Option ZlibSession}
  (hwrote : Wrote (xferClear s) u dst v) (hn : v.length = n)
include hwrote hn

theorem Wrote.endOfZlib (hend : EndOf (u.setZlib y) t) : EndOfZlib s t dst n v y := by
  subst hn
  have hsession : Wrote (xferClear (s.setZlib y)) (u.setZlib y) dst v := hwrote.setZlib y
  obtain ⟨⟨hsha, haes, hzlib⟩, hfree, houtside, hcount⟩ := hend.leaves hsession rfl
  have hbyte (m : MemType) (x : Nat) : (s.setZlib y).byteAt m x = s.byteAt m x := by cases m <;> rfl
  exact ⟨hsha, haes, hzlib, hfree, fun m x hx => (houtside m x hx).trans (hbyte m x), hcount,
    (hend.sameBytes.bytesAt ..).trans hsession.bytesAt⟩

theorem exec_zlib_completes {x : Xfer} (h : zlibCommand fl src dst s = .ok x (u.setZlib y)) :
    ∃ t, exec (.zlibInflate fl src dst) s = .next t ∧ Succeeded s t ∧ EndOfZlib s t dst n v y :=
  ⟨complete (u.setZlib y), congrArg retire h,
    ((xferClear_moved s).trans hwrote.moved).succeeded (complete_succeeded (u.setZlib y)),
    hwrote.endOfZlib hn (endOf_complete _)⟩

theorem exec_zlib_raises {e : ErrKind} {r : Reply} (h : zlibCommand fl src dst s = .raise e (u.setZlib none))
    (hp : s.phase = .draining r) :
    ∃ t, exec (.zlibInflate fl src dst) s = .next t ∧ Failed s t ∧ EndOfZlib s t dst n v none :=
  have hmoved := (xferClear_moved s).trans hwrote.moved
  have hpu : (u.setZlib none).phase = .draining r := hmoved.phase.trans hp
  ⟨takeError e (u.setZlib none), congrArg retire h, hmoved.failed (takeError_failed e hpu),
    hwrote.endOfZlib hn (endOf_takeError e hpu)⟩

end Ends

/-- A command that raised with the first `k` bytes of its output `v` written. -/
theorem exec_zlib_drops {fl : MsgFlags} {src : Source} {dst : Place} {s u : State} {v : Bytes} {k : Nat} {e : ErrKind}
    {r : Reply} (hwrote : Wrote (xferClear s) u dst (v.take k)) (hk : k ≤ v.length)
    (h : zlibCommand fl src dst s = .raise e (u.setZlib none)) (hp : s.phase = .draining r) :
    ∃ t, exec (.zlibInflate fl src dst) s = .next t ∧ Failed s t ∧ t.zlib = none ∧ t.sha = s.sha ∧ t.aes = s.aes ∧
      t.freeCount = s.freeCount ∧ SameOutside s t dst k ∧ t.cbWrittenLast = writtenAfter dst k ∧
      t.bytesAt dst.mt dst.addr k = v.take k := by
  obtain ⟨t, hexec, hfailed, hend⟩ := exec_zlib_raises hwrote (List.length_take_of_le hk) h hp
  exact ⟨t, hexec, hfailed, hend.zlib, hend.sha, hend.aes, hend.freeCount, hend.sameOutside, hend.cbWrittenLast, hend.bytesAt⟩

/-! ## The command -/

/-- The end of the loop: the buffer is flushed and the session is stored (R246, R247). -/
def zlibClose (eom : Bool) (q : ZlibSession × Bytes × Xfer) (s : State) : Res Xfer :=
  (xferWriteSome q.2.2 q.2.1 s).andThen fun x t => .ok x (t.setZlib (if eom then none else some q.1))

theorem zlibCommand_eq (fl : MsgFlags) (src : Source) (dst : Place) (s : State) :
    zlibCommand fl src dst s =
      Res.onRaise (State.setZlib · none)
        ((zlibLoop src.cbSrc (zlibStart fl.init s) [] (zlibXfer src dst) (xferClear s)).andThen (zlibClose fl.eom)) := rfl

/-- Settles O34: the loop stops before it reads, with an empty buffer. -/
theorem inflateIgnoresInputAfterTheEnd : Obligations.InflateIgnoresInputAfterTheEnd := by
  rintro s fl src dst z rfl hdone
  have hcommand : zlibCommand fl src dst s =
      .ok (zlibXfer src dst) ((xferClear s).setZlib (if fl.eom then none else some (zlibStart fl.init s))) := by
    rw [zlibCommand_eq, zlibLoop_stops _ _ _ (.inr hdone)]
    rfl
  obtain ⟨t, hexec, hsucceeded, hend⟩ := exec_zlib_completes (.nil (xferClear s) dst) rfl hcommand
  refine ⟨t, hexec, hsucceeded, hend.sha, hend.aes, hend.freeCount, fun mt a => ?same, ?count, hend.zlib⟩
  case same => exact hend.sameOutside mt a fun _ => Nat.lt_or_ge a dst.addr
  case count => simp [hend.cbWrittenLast, writtenAfter]

/-- A decoded output that is served goes to memory: the full buffers at once, the rest at the end. -/
theorem zlibClose_writes {eom : Bool} {y : ZlibSession} {v : Bytes} {m k : Nat} {src : Source} {dst : Place} {s t : State}
    (hm : m ≤ v.length) (hwrote : Wrote s t dst (v.take m)) (hw : s.MemoryWf)
    (hdst : s.serves dst.mt dst.addr v.length = true) :
    ∃ x u, zlibClose eom (y, v.drop m, (zlibXfer src (dst.past m)).advanced k) t =
        .ok x (u.setZlib (if eom then none else some y)) ∧ Wrote s u dst v := by
  have hlen : (v.take m).length = m := List.length_take_of_le hm
  have hrest : t.serves dst.mt (dst.addr + m) (v.drop m).length = true := by
    rw [hwrote.moved.serves, List.length_drop]
    exact State.serves_mono hdst (Nat.le_add_right _ _) (by omega)
  obtain ⟨u, hwrite, hlast⟩ := xferWriteSome_wrote (x := (zlibXfer src (dst.past m)).advanced k) (hwrote.moved.wf hw) rfl rfl
    hrest
  refine ⟨_, u, by rw [zlibClose, hwrite]; rfl, ?_⟩
  have hboth := hwrote.above (w := v.drop m) (by rw [hlen]; exact hlast)
  rwa [List.take_append_drop] at hboth

/-- Last bytes that are refused raise. -/
theorem zlibClose_refused {eom : Bool} {y : ZlibSession} {b : Bytes} {m k : Nat} {src : Source} {dst : Place} {s : State}
    (h : s.serves dst.mt (dst.addr + m) b.length = false) :
    ∃ e, zlibClose eom (y, b, (zlibXfer src (dst.past m)).advanced k) s = .raise e s := by
  have hwrite := xferWriteSome_of_not_serves (x := (zlibXfer src (dst.past m)).advanced k) (v := b) (s := s) rfl rfl h
  exact ⟨_, by rw [zlibClose, hwrite]; rfl⟩

/-- What is known of the beginning of a command that feeds the first `p` bytes of its source. -/
theorem zlibFeed_start {fl : MsgFlags} {src : Source} {dst : Place} {s : State} {p c : Nat} {z : ZlibSession} {input : Bytes}
    (hz : z = zlibStart fl.init s) (hs : s.ZlibWf) (hmore : (inflate z.zin).status = .needMore) (hw : s.MemoryWf)
    (hp : p ≤ src.cbSrc) (hcut : p = src.cbSrc ∨ 4096 ∣ p) (hsrc : s.serves src.mt src.addr p = true)
    (hinput : input = s.bytesAt src.mt src.addr p)
    (hkept : p ≤ 4096 ∨ sourceDisjoint { src with cbSrc := p } dst c = true)
    (hbound : ∀ w, 4096 ∣ w → w ≤ (zlibNew z input).length → s.serves dst.mt dst.addr w = true → w ≤ c) :
    ZlibFeed src dst (xferClear s) p c z [] input where
  session := hz ▸ zlibStart_wf fl.init hs
  more := hmore
  room := by decide
  memory := (xferClear_moved s).wf hw
  within := hp
  cut := hcut
  served := hsrc
  bytes := hinput.trans (xferClear_bytesAt ..).symm
  kept := hkept
  bound := hbound

/-- No buffer past one that is refused is ever written. -/
theorem bound_of_refused {s : State} {mt : MemType} {a k n : Nat} (hk : 4096 ∣ k)
    (hrefused : s.serves mt (a + k) (min 4096 (n - k)) = false) :
    ∀ w, 4096 ∣ w → w ≤ n → s.serves mt a w = true → w ≤ k := by
  intro w hw hn hserved
  by_contra hlt
  have hbuffer : s.serves mt (a + k) (min 4096 (n - k)) = true :=
    State.serves_mono hserved (Nat.le_add_right _ _) (by omega)
  cases hrefused.symm.trans hbuffer

/-- The loop ends when its source is used up or the stream is complete. -/
theorem zlibResume_ends {f m : Nat} {y z : ZlibSession} {src : Source} {input : Bytes}
    (h : ZlibFedTo src src.cbSrc z input f y m) (hgood : (inflate (z.zin ++ input)).status ≠ .error) (b : Bytes) (d : Place)
    (t : State) :
    zlibResume (inflate (z.zin ++ input)).status f y m (b, zlibXfer src d) t =
      .ok (y, b, (zlibXfer src d).advanced m) t := by
  rw [zlibResume, if_neg hgood]
  refine zlibLoop_stops f b t ?_
  cases hstatus : (inflate y.zin).status with
  | needMore =>
    obtain ⟨rfl, -⟩ := h.waiting hstatus
    exact .inl (Nat.sub_self src.cbSrc)
  | done => exact .inr rfl
  | error => exact absurd (h.same ▸ hstatus) hgood

section Command
variable {fl : MsgFlags} {src : Source} {dst : Place} {s : State} {p c : Nat} {z : ZlibSession} {input : Bytes}
  (hz : z = zlibStart fl.init s)
include hz

theorem zlibCommand_emits (h : ZlibFeed src dst (xferClear s) p c z [] input) :
    ∃ f y m, ZlibFedTo src p z input f y m ∧
      zlibCommand fl src dst s =
        Res.onRaise (State.setZlib · none)
          (((zlibEmit (zlibNew z input) [] (zlibXfer src dst) (xferClear s)).andThen
            (zlibResume (inflate (z.zin ++ input)).status f y m)).andThen (zlibClose fl.eom)) := by
  obtain ⟨f, y, m, hto, hloop⟩ := h.emits (Nat.le_refl _)
  exact ⟨f, y, m, hto, by rw [zlibCommand_eq, ← hz, hloop]⟩

/-- Input that is no decode error, and whose output is served, is decoded to its end. -/
theorem zlibCommand_completes (h : ZlibFeed src dst (xferClear s) src.cbSrc c z [] input)
    (hgood : (inflate (z.zin ++ input)).status ≠ .error)
    (hdst : s.serves dst.mt dst.addr (zlibNew z input).length = true) :
    ∃ f y m x u, ZlibFedTo src src.cbSrc z input f y m ∧
      zlibCommand fl src dst s = .ok x (u.setZlib (if fl.eom then none else some y)) ∧
      Wrote (xferClear s) u dst (zlibNew z input) := by
  obtain ⟨f, y, m, hto, hcommand⟩ := zlibCommand_emits hz h
  have hfull : (zlibNew z input).length / 4096 * 4096 ≤ (zlibNew z input).length := Nat.div_mul_le_self _ _
  obtain ⟨t, hemit, hbuffers⟩ := zlibEmit_served (src := src) h.memory rfl
    (State.serves_mono hdst (Nat.le_refl _) (Nat.add_le_add_left hfull _))
  obtain ⟨x, u, hclose, hwrote⟩ := zlibClose_writes (eom := fl.eom) (y := y) (k := m) (src := src) hfull hbuffers h.memory hdst
  refine ⟨f, y, m, x, u, hto, ?_, hwrote⟩
  rw [hcommand, hemit]
  simp only [Res.andThen, zlibResume_ends hto hgood, hclose, Res.onRaise]

/-- A decode error raises with the full buffers written. -/
theorem zlibCommand_decode_error (h : ZlibFeed src dst (xferClear s) p c z [] input)
    (hbad : (inflate (z.zin ++ input)).status = .error) {k : Nat} (hk : k = (zlibNew z input).length / 4096 * 4096)
    (hdst : s.serves dst.mt dst.addr k = true) :
    ∃ e u, zlibCommand fl src dst s = .raise e (u.setZlib none) ∧
      Wrote (xferClear s) u dst ((zlibNew z input).take k) := by
  obtain ⟨f, y, m, -, hcommand⟩ := zlibCommand_emits hz h
  obtain ⟨t, hemit, hwrote⟩ := zlibEmit_served (src := src) h.memory hk hdst
  refine ⟨.engineError, t, ?_, hwrote⟩
  rw [hcommand, hemit, hbad]
  rfl

/-- A source piece that is not served raises with the full buffers of the input before it written. -/
theorem zlibCommand_source_refused (h : ZlibFeed src dst (xferClear s) p c z [] input) (hp : p < src.cbSrc)
    (hrefused : s.serves src.mt (src.addr + p) (min 4096 (src.cbSrc - p)) = false)
    (hmore : (inflate (z.zin ++ input)).status = .needMore) {k : Nat} (hk : k = (zlibNew z input).length / 4096 * 4096)
    (hdst : s.serves dst.mt dst.addr k = true) :
    ∃ e u, zlibCommand fl src dst s = .raise e (u.setZlib none) ∧
      Wrote (xferClear s) u dst ((zlibNew z input).take k) := by
  obtain ⟨f, y, m, hto, hcommand⟩ := zlibCommand_emits hz h
  have hy : (inflate y.zin).status = .needMore := hto.same ▸ hmore
  obtain ⟨rfl, hfuel⟩ := hto.waiting hy
  obtain ⟨n, rfl⟩ : ∃ n, f = n + 1 := ⟨f - 1, by omega⟩
  obtain ⟨t, hemit, hwrote⟩ := zlibEmit_served (src := src) h.memory hk hdst
  obtain ⟨e, hloop⟩ := zlibLoop_source_refused (fuel := n) (z := y) (obuf := (zlibNew z input).drop k) (src := src.past m)
    (dst := dst.past k) (s := t) (show src.cbSrc - m ≠ 0 by omega) rfl hy
    (((xferClear_moved s).trans hwrote.moved).serves .. ▸ hrefused)
  have hresume : zlibResume (inflate (z.zin ++ input)).status (n + 1) y m
      ((zlibNew z input).drop k, zlibXfer src (dst.past k)) t = .raise e t := by
    rw [zlibResume, if_neg (by rw [hmore]; decide)]
    exact hloop
  refine ⟨e, t, ?_, hwrote⟩
  rw [hcommand, hemit]
  simp only [Res.andThen, hresume, Res.onRaise]

/-- A buffer that is not served, a full one or the last, raises with the buffers before it written. -/
theorem zlibCommand_buffer_refused (h : ZlibFeed src dst (xferClear s) src.cbSrc c z [] input) {j k : Nat}
    (hcase : (inflate (z.zin ++ input)).status ≠ .error ∨ k + 4096 ≤ (zlibNew z input).length) (hk : k = 4096 * j)
    (hdst : s.serves dst.mt dst.addr k = true)
    (hrefused : s.serves dst.mt (dst.addr + k) (min 4096 ((zlibNew z input).length - k)) = false) :
    ∃ e u, zlibCommand fl src dst s = .raise e (u.setZlib none) ∧
      Wrote (xferClear s) u dst ((zlibNew z input).take k) := by
  obtain ⟨f, y, m, hto, hcommand⟩ := zlibCommand_emits hz h
  by_cases hfull : k + 4096 ≤ (zlibNew z input).length
  case pos =>
    rw [Nat.min_eq_left (by omega)] at hrefused
    obtain ⟨e, t, hemit, hwrote⟩ := zlibEmit_refused (src := src) h.memory hk hfull hdst hrefused
    exact ⟨e, t, by rw [hcommand, hemit]; rfl, hwrote⟩
  case neg =>
    have hlast : (zlibNew z input).length - k ≠ 0 := by
      intro hnone
      rw [hnone] at hrefused
      cases hrefused
    rw [Nat.min_eq_right (by omega), ← List.length_drop] at hrefused
    obtain ⟨t, hemit, hwrote⟩ := zlibEmit_served (src := src) (v := zlibNew z input) (m := k) h.memory (by omega) hdst
    obtain ⟨e, hclose⟩ := zlibClose_refused (eom := fl.eom) (y := y) (m := k) (k := m) (src := src) (s := t)
      (((xferClear_moved s).trans hwrote.moved).serves .. ▸ hrefused)
    refine ⟨e, t, ?_, hwrote⟩
    rw [hcommand, hemit]
    simp only [Res.andThen, zlibResume_ends hto (hcase.resolve_right hfull), hclose, Res.onRaise]

end Command

/-! ## The statements -/

/-- Settles O33: the whole input is fed, its output is written, and the session that is kept has decoded as much. -/
theorem inflateWritesDecodedBytes : Obligations.InflateWritesDecodedBytes := by
  intro s fl src dst z k hw hs hz hmore hsrc hgood hk hdst hkept
  have hlen : (zlibNew z (s.bytesAt src.mt src.addr src.cbSrc)).length = k := by rw [zlibNew, List.length_drop, hk]
  have hfeed := zlibFeed_start hz hs hmore hw (Nat.le_refl _) (.inl rfl) hsrc rfl hkept fun w _ hle _ => hle.trans_eq hlen
  obtain ⟨f, y, m, x, u, hto, hcommand, hwrote⟩ := zlibCommand_completes hz hfeed hgood (by rw [hlen]; exact hdst)
  obtain ⟨t, hexec, hsucceeded, hend⟩ := exec_zlib_completes hwrote hlen hcommand
  refine ⟨t, hexec, hsucceeded, hend.sha, hend.aes, hend.freeCount, hend.sameOutside, hend.cbWrittenLast, hend.bytesAt,
    fun heom => ?emptied, fun heom => ⟨y, ?kept, ?wf, hto.same, hto.onePiece⟩⟩
  case emptied => rw [hend.zlib, if_pos heom]
  case kept => rw [hend.zlib, heom]; rfl
  case wf =>
    have hexecuted := zlibCommand_executed fl src dst hs
    rw [hcommand, heom] at hexecuted
    exact hexecuted.zlib hs y rfl

/-- Settles O35: each failure raises with the full buffers before it written. -/
theorem inflateErrorDropsTheBuffer : Obligations.InflateErrorDropsTheBuffer := by
  intro s fl src dst z j k r hw hp hs hz hmore hdst
  constructor
  case left =>
    rintro o rfl hsrc hcase hkept
    obtain ⟨input, hinput⟩ : ∃ v, v = s.bytesAt src.mt src.addr src.cbSrc := ⟨_, rfl⟩
    rw [← hinput] at hcase ⊢
    have hlen : (zlibNew z input).length = (inflate (z.zin ++ input)).out.length - z.zout := List.length_drop
    rw [← hlen] at hcase
    have hfeed := zlibFeed_start hz hs hmore hw (Nat.le_refl _) (.inl rfl) hsrc hinput hkept
    rcases hcase with ⟨hbad, hk⟩ | ⟨hgood, hk, hlt, hrefused⟩
    · obtain ⟨e, u, hcommand, hwrote⟩ := zlibCommand_decode_error hz (hfeed fun w _ _ _ => by omega) hbad hk hdst
      exact exec_zlib_drops hwrote (show k ≤ (zlibNew z input).length by omega) hcommand hp
    · obtain ⟨e, u, hcommand, hwrote⟩ :=
        zlibCommand_buffer_refused hz (hfeed (bound_of_refused (by omega) hrefused)) hgood hk hdst hrefused
      exact exec_zlib_drops hwrote hlt.le hcommand hp
  case right =>
    rintro p o hpj hlt hsrc hrefused rfl hwaiting hk hkept
    obtain ⟨input, hinput⟩ : ∃ v, v = s.bytesAt src.mt src.addr p := ⟨_, rfl⟩
    rw [← hinput] at hwaiting hk ⊢
    have hlen : (zlibNew z input).length = (inflate (z.zin ++ input)).out.length - z.zout := List.length_drop
    rw [← hlen] at hk
    have hfeed := zlibFeed_start hz hs hmore hw hlt.le (.inr ⟨j, hpj⟩) hsrc hinput hkept fun w _ _ _ => by omega
    obtain ⟨e, u, hcommand, hwrote⟩ := zlibCommand_source_refused hz hfeed hlt hrefused hwaiting hk hdst
    exact exec_zlib_drops hwrote (show k ≤ (zlibNew z input).length by omega) hcommand hp

end Sys2Proof.Machine
end

section
/-! PROOFS. Every command ends by one of its two ends (47_queue_controller.md R258 to R260; 60_exceptions.md R350, R367),
whatever the sessions before it: the registers of the device are no command's to write. -/

namespace Sys2Proof.Machine

/-! ## What no command writes -/

/-- `t` differs from `s` in nothing but what a command may write. Unlike `Executed` this says nothing of the shapes of those
fields, so it also holds of a command that works on an ill-formed session. -/
structure KeepsDevice (s t : State) : Prop where
  rest : t =
    { s with
      lsb := t.lsb
      sha := t.sha
      aes := t.aes
      zlib := t.zlib
      cbWrittenLast := t.cbWrittenLast
      localMem := t.localMem
      freeCount := t.freeCount }

theorem KeepsDevice.refl (s : State) : KeepsDevice s s := ⟨rfl⟩

theorem KeepsDevice.trans {s t u : State} (h1 : KeepsDevice s t) (h2 : KeepsDevice t u) : KeepsDevice s u :=
  ⟨by rw [h2.rest, h1.rest]⟩

theorem KeepsDevice.queue {s t : State} (h : KeepsDevice s t) (q : QId) : t.queue q = s.queue q := by
  rw [h.rest]
  cases q <;> rfl
theorem KeepsDevice.params {s t : State} (h : KeepsDevice s t) : t.params = s.params := by rw [h.rest]
theorem KeepsDevice.irqLine {s t : State} (h : KeepsDevice s t) : t.irqLine = s.irqLine := by rw [h.rest]
theorem KeepsDevice.pending {s t : State} (h : KeepsDevice s t) : t.pending = s.pending := by rw [h.rest]
theorem KeepsDevice.responses {s t : State} (h : KeepsDevice s t) : t.responses = s.responses := by rw [h.rest]
theorem KeepsDevice.phase {s t : State} (h : KeepsDevice s t) : t.phase = s.phase := by rw [h.rest]
theorem KeepsDevice.cur {s t : State} (h : KeepsDevice s t) : t.cur = s.cur := by rw [h.rest]

theorem Executed.keepsDevice {s t : State} (h : Executed s t) : KeepsDevice s t := ⟨h.rest⟩

theorem Moved.keepsDevice {s t : State} (h : Moved s t) : KeepsDevice s t := h.executed.keepsDevice

theorem keepsDevice_setAes (s : State) (v : Option AesSession) : KeepsDevice s (s.setAes v) := ⟨rfl⟩
theorem keepsDevice_setZlib (s : State) (v : Option ZlibSession) : KeepsDevice s (s.setZlib v) := ⟨rfl⟩

/-! ## The parts of a command -/

theorem Res.Ends.keepsDevice {α : Type} {r : Res α} {s : State} (h : r.Ends (Moved s)) : r.Ends (KeepsDevice s) :=
  h.mono fun _ => Moved.keepsDevice

theorem Res.Ends.andThen_keepsDevice {α β : Type} {r : Res α} {f : α → State → Res β} {s : State}
    (hr : r.Ends (KeepsDevice s)) (hf : ∀ a u, (f a u).Ends (KeepsDevice u)) : (r.andThen f).Ends (KeepsDevice s) :=
  hr.andThen_trans (R := KeepsDevice) (fun _ _ _ => KeepsDevice.trans) fun a u _ => hf a u

theorem Res.Ends.onRaise_keepsDevice {α : Type} {r : Res α} {s : State} {f : State → State} (h : r.Ends (KeepsDevice s))
    (hf : ∀ u, KeepsDevice u (f u)) : (r.onRaise f).Ends (KeepsDevice s) := by
  cases r with
  | ok a u => exact h
  | raise k u => exact h.trans (hf u)

theorem aesClose_keepsDevice (eom : Bool) (sess : AesSession) (x : Xfer) (s : State) :
    (aesClose eom sess x s).Ends (KeepsDevice s) := by
  unfold aesClose
  split
  · split
    · exact keepsDevice_setAes s none
    · exact KeepsDevice.refl s
  · exact keepsDevice_setAes s _

/-- Any session, fed with the source and closed. -/
theorem aesRun_keepsDevice (fuel : Nat) (eom : Bool) (sess : AesSession) (x : Xfer) (s : State) :
    ((aesLoop fuel sess x s).andThen fun q s2 => aesClose eom q.1 q.2 s2).Ends (KeepsDevice s) :=
  (aesLoop_moved fuel sess x s).keepsDevice.andThen_keepsDevice fun q u => aesClose_keepsDevice eom q.1 q.2 u

theorem aesLocal_keepsDevice (p : AesParams) (r : AesReq) (s : State) : (aesLocal p r s).Ends (KeepsDevice s) := by
  have hclear : KeepsDevice s (xferClear s) := (xferClear_moved s).keepsDevice
  unfold aesLocal
  split
  · exact (Res.Ends.ofRead _ _ hclear).andThen_keepsDevice fun sess u => aesRun_keepsDevice _ _ sess _ u
  · split
    · exact (aesRun_keepsDevice _ _ _ _ _).mono fun _ => hclear.trans
    · exact (sessionMismatch_moved Xfer s).keepsDevice

theorem aesCommand_keepsDevice (dw0 : Nat) (p : AesParams) (r : AesReq) (s : State) :
    (aesCommand dw0 p r s).Ends (KeepsDevice s) := by
  refine Res.Ends.onRaise_keepsDevice ?_ fun u => keepsDevice_setAes u none
  split
  · exact (aesProxy_executed dw0 p r s).mono fun _ => Executed.keepsDevice
  · exact aesLocal_keepsDevice p r s

theorem zlibCommand_keepsDevice (fl : MsgFlags) (src : Source) (dst : Place) (s : State) :
    (zlibCommand fl src dst s).Ends (KeepsDevice s) := by
  refine Res.Ends.onRaise_keepsDevice ?_ fun u => keepsDevice_setZlib u none
  have hloop := (zlibLoop_moved src.cbSrc (zlibStart fl.init s) [] (xferOf src dst none false) (xferClear s)).mono
    fun _ => (xferClear_moved s).trans
  exact hloop.keepsDevice.andThen_keepsDevice fun q u =>
    (xferWriteSome_moved q.2.2 q.2.1 u).keepsDevice.andThen_keepsDevice fun _ v => keepsDevice_setZlib v _

/-- Every arm of the dispatch retires a command that leaves the registers to its end (40_dispatch.md R142). -/
theorem exec_keepsDevice (i : Instr) (s : State) : ∃ r : Res Xfer, exec i s = retire r ∧ r.Ends (KeepsDevice s) := by
  cases i with
  | ptCopy fl src dst => exact ⟨_, rfl, (ptCopy_moved src dst s).keepsDevice⟩
  | ptSwap256 fl src dst => exact ⟨_, rfl, (ptSwap256_moved src dst s).keepsDevice⟩
  | sha256 fl src n | sha384 fl src n =>
    exact ⟨_, rfl, (shaCommand_executed _ fl src s).mono fun _ => Executed.keepsDevice⟩
  | aes128EcbDec fl src dst key | aes128EcbEnc fl src dst key | aes128CbcDec fl src dst key | aes128CbcEnc fl src dst key
  | aes256EcbDec fl src dst key | aes256EcbEnc fl src dst key | aes256CbcDec fl src dst key | aes256CbcEnc fl src dst key =>
    exact ⟨_, rfl, aesCommand_keepsDevice _ _ _ s⟩
  | rsaModexp2048 fl src dst key | rsaModexp4096 fl src dst key =>
    exact ⟨_, rfl, (rsaCommand_moved _ src dst key s).keepsDevice⟩
  | eccMulf fl src dst bits | eccAddf fl src dst bits | eccInvf fl src dst bits | eccMulc fl src dst bits
  | eccMuladdc fl src dst bits => exact ⟨_, rfl, (eccCommand_moved _ _ _ src dst bits s).keepsDevice⟩
  | zlibInflate fl src dst => exact ⟨_, rfl, zlibCommand_keepsDevice fl src dst s⟩

/-! ## The registers after a command -/

theorem KeepsDevice.succeeded {s u t : State} (h : KeepsDevice s u) (ht : Succeeded u t) : Succeeded s t := by
  simpa only [Succeeded, Untouched, h.queue, h.params, h.pending, h.cur, h.phase, h.irqLine, h.responses] using ht

theorem KeepsDevice.failed {s u t : State} (h : KeepsDevice s u) (ht : Failed u t) : Failed s t := by
  simpa only [Failed, Untouched, h.queue, h.params, h.pending, h.cur, h.responses] using ht

/-- Settles O36: a command leaves the registers as they were, then `retire` takes one of its two ends. -/
theorem everyCommandSucceedsOrFails : Obligations.EveryCommandSucceedsOrFails := by
  intro i s r hp
  obtain ⟨res, hres, hends⟩ := exec_keepsDevice i s
  obtain ⟨u, hu, hend⟩ := retire_next res hends
  rcases hend with he | ⟨k, he⟩
  · exact ⟨complete u, hres.trans he, .inl (hu.succeeded (complete_succeeded u))⟩
  · exact ⟨takeError k u, hres.trans he, .inr (hu.failed (takeError_failed k (hu.phase.trans hp)))⟩

end Sys2Proof.Machine
end

section
/-! PROOFS. The turns of a drain (47_queue_controller.md R255 to R260): at `head = tail` it stops and its access is answered,
else the descriptor at `head` is run; nothing but the queue's own `control`, `ists`, `status` and `head` moves (R268). -/

namespace Sys2Proof.Machine

section Turns
variable {s : State} {r : Reply}

/-! ## The command at `head` -/

/-- A served descriptor that is a command is run as that command (R257; 40_dispatch.md R142). -/
theorem drainStep_of_decode {i : Instr} (hserves : s.serves .localMem (s.queue s.cur).head.toNat 32 = true)
    (hdecode : decodeWith s.params.encoding (s.bytesAt .localMem (s.queue s.cur).head.toNat 32) = .ok i) :
    drainStep s = exec i s := by
  simp [drainStep, fetchDesc_eq, hserves, hdecode]

/-- A turn of the loop ends as a command does: a descriptor that cannot be run takes the error path (R257, R258, R259). -/
theorem drainStep_succeeds_or_fails (hp : s.phase = .draining r) :
    ∃ t, drainStep s = .next t ∧ (Succeeded s t ∨ Failed s t) := by
  unfold drainStep
  split
  next => exact ⟨_, rfl, .inr (takeError_failed _ hp)⟩
  next d _ =>
    split
    next => exact ⟨_, rfl, .inr (takeError_failed _ hp)⟩
    next i _ => exact everyCommandSucceedsOrFails i s r hp

/-! ## The stop -/

theorem step_of_empty (hp : s.phase = .draining r) (he : (s.queue s.cur).head = (s.queue s.cur).tail) :
    step s = .next (finishAccess (stopDrain s)) := by
  have hdone : drainDone s = true := beq_iff_eq.2 he
  simp [step, hp, hdone]

theorem stopDrain_queue (s : State) : (stopDrain s).queue s.cur = (s.queue s.cur).stopped s.params.bits :=
  State.setQueue_queue s s.cur _

/-- The stop changes two registers of its queue, then its access is answered (R260; 48_mmio.md R280, R293). -/
theorem finishAccess_stopDrain_eq (hp : s.phase = .draining r) :
    finishAccess (stopDrain s) =
      { answered (stopDrain s) s.pending (r.data ((stopDrain s).queue s.cur)) with phase := .idle } := by
  have hcur : (stopDrain s).cur = s.cur := State.setQueue_cur s s.cur _
  have hpending : (stopDrain s).pending = s.pending := State.setQueue_pending s s.cur _
  have hphase : (stopDrain s).phase = .draining r := (State.setQueue_phase s s.cur _).trans hp
  rw [finishAccess_draining _ hphase, hcur, ← hpending]
  rfl

/-- What the stop leaves of the queues, and what it leaves alone. -/
theorem finishAccess_stopDrain_stopped (hp : s.phase = .draining r) :
    (finishAccess (stopDrain s)).queue s.cur = (s.queue s.cur).stopped s.params.bits ∧
      Untouched s (finishAccess (stopDrain s)) ∧ (finishAccess (stopDrain s)).phase = .idle := by
  have hphase : (stopDrain s).phase = .draining r := (State.setQueue_phase s s.cur _).trans hp
  rw [finishAccess_draining _ hphase]
  refine ⟨?queue, ⟨?others, ?params, ?pending, ?cur⟩, rfl⟩
  case queue => rw [respond_queue, State.setPhase_queue, stopDrain_queue]
  case others => exact fun q hq => by rw [respond_queue, State.setPhase_queue, stopDrain, State.setQueue_queue_ne s _ hq]
  case params => exact State.setQueue_params s s.cur _
  case pending => exact State.setQueue_pending s s.cur _
  case cur => exact State.setQueue_cur s s.cur _

/-- Everything a step of a drain does to the registers: it stops an empty queue, or ends a command. -/
theorem step_draining_cases {t : State} (hp : s.phase = .draining r) (ht : step s = .next t) :
    ((s.queue s.cur).head = (s.queue s.cur).tail ∧ t.queue s.cur = (s.queue s.cur).stopped s.params.bits ∧
        Untouched s t ∧ t.phase = .idle) ∨
      ((s.queue s.cur).head ≠ (s.queue s.cur).tail ∧ (Succeeded s t ∨ Failed s t)) := by
  by_cases he : (s.queue s.cur).head = (s.queue s.cur).tail
  · obtain rfl := Host.Outcome.next.inj ((step_of_empty hp he).symm.trans ht)
    exact .inl ⟨he, finishAccess_stopDrain_stopped hp⟩
  · obtain ⟨t', ht', hends⟩ := drainStep_succeeds_or_fails hp
    obtain rfl := Host.Outcome.next.inj (ht'.symm.trans ((step_draining hp he).symm.trans ht))
    exact .inr ⟨he, hends⟩

end Turns

/-! ## A placed descriptor -/

/-- A region cut around an access does not refuse it (20_memory.md R54). -/
theorem Region.without_apart {a n : Nat} {r x : Region} (h : x ∈ Region.without a n r) :
    min (a + n) (x.base + x.size) ≤ max a x.base := by
  unfold Region.without at h
  split at h
  next hapart =>
    obtain rfl := List.mem_singleton.1 h
    exact hapart
  next =>
    simp only [List.mem_cons, List.not_mem_nil, or_false] at h
    rcases h with rfl | rfl <;> dsimp only <;> omega

theorem armDesc_cur (s : State) (d : Bytes) : (armDesc s d).cur = s.cur := State.setQueue_cur s s.cur _

theorem armDesc_queue (s : State) (d : Bytes) :
    (armDesc s d).queue (armDesc s d).cur = (s.queue s.cur).armed s.params.bits := by
  rw [armDesc_cur]
  exact State.setQueue_queue s s.cur _

theorem armDesc_phase (s : State) (d : Bytes) : ∃ r, (armDesc s d).phase = .draining r := by
  cases h : s.phase with
  | idle => exact ⟨_, congrArg Phase.armed h⟩
  | draining r => exact ⟨r, congrArg Phase.armed h⟩

/-- The place of the descriptor is mapped. -/
theorem armDesc_serves (s : State) (d : Bytes) :
    (armDesc s d).serves .localMem (s.queue s.cur).head.toNat 32 = true := by
  have hlimit : (s.queue s.cur).head.toNat + 32 ≤ 2 ^ 48 := by have := (s.queue s.cur).head.isLt; omega
  have hmapped : mappedRange (armDesc s d).params (s.queue s.cur).head.toNat 32 = true := by
    simp only [mappedRange, List.all_eq_true, decide_eq_true_eq]
    intro x hx
    obtain ⟨y, -, hxy⟩ := List.mem_flatMap.1 hx
    exact Region.without_apart hxy
  simp only [State.serves, decide_eq_true hlimit, hmapped]
  rfl

/-- The descriptor is read back at `head`. -/
theorem armDesc_bytesAt {s : State} (h : s.MemoryWf) {d : Bytes} (hd : d.length = 32) :
    (armDesc s d).bytesAt .localMem (s.queue s.cur).head.toNat 32 = d := by
  have hlimit : (s.queue s.cur).head.toNat + d.length ≤ addrLimit := by
    have := (s.queue s.cur).head.isLt
    rw [addrLimit]
    omega
  have hread := Memory.readBytes_writeBytes_self h.2 _ d hlimit
  rw [hd] at hread
  rw [State.bytesAt_localMem]
  exact hread

/-- A word of the opcode table is a descriptor that the default encoding decodes (30_encoding.md R115). -/
theorem decode_of_decodeTableWord {n w : Nat} {i : Instr} (h : decodeTableWord n w = some i) :
    decodeWith Encoding.default (toLe (w % 2 ^ n) 32) = .ok i := by
  unfold decodeTableWord at h
  cases hd : decode (toLe (w % 2 ^ n) 32) with
  | error e => rw [hd] at h; cases h
  | ok j =>
    rw [hd] at h
    obtain rfl := Option.some.inj h
    exact hd

/-! ## The statements -/

/-- Settles O38: the loop test fails, the fetch is served, and the descriptor decodes. -/
theorem stepRunsTheDecodedCommand : Obligations.StepRunsTheDecodedCommand := by
  intro s r i hp hne hserves hdecode
  rw [step_draining hp hne, drainStep_of_decode hserves hdecode]

/-- Settles O40: the queue is empty, so the stop sets Q_EMPTY too. -/
theorem emptyQueueStopsTheDrain : Obligations.EmptyQueueStopsTheDrain := by
  intro s r hp he
  refine ⟨stopDrain s, ?stop, ?answer⟩
  case stop => rw [stopDrain, Queue.stopped, if_pos he]
  case answer =>
    rw [step_of_empty hp he, finishAccess_stopDrain_eq hp]
    cases r <;> rfl

/-- Settles O41: the error path writes registers alone, and does not look at the kind. -/
theorem takingAnErrorStopsTheQueue : Obligations.TakingAnErrorStopsTheQueue := by
  intro s k r hp
  have hdata := sameData_takeError k s
  exact ⟨takeError_failed k hp, hdata.sessions, hdata.sameBytes, hdata.cbWrittenLast, takeError_freeCount k hp,
    fun _ => rfl⟩

/-- Settles O43, by the three ways in which a step of a drain ends. -/
theorem drainKeepsWhatOnlyFirmwareWrites : Obligations.DrainKeepsWhatOnlyFirmwareWrites := by
  intro s t r hp ht
  rcases step_draining_cases hp ht with ⟨-, hq, hun, -⟩ | ⟨-, ⟨hq, hun, -⟩ | ⟨hq, hun, -⟩⟩ <;>
    exact ⟨hun, (congrArg Queue.tail hq).trans rfl, (congrArg Queue.ien hq).trans rfl,
      (congrArg Queue.enabled hq).trans rfl⟩

/-- Settles O54: an idle device serves the host, which asks for nothing. -/
theorem idleDeviceDoesNothing : Obligations.IdleDeviceDoesNothing := by
  intro s hp hpending
  rw [step, hp]
  exact congrArg Host.Outcome.next (by rw [serveHost, hpending])

/-- Settles O60: O38 in the state that the placing leaves, whose `tail` is past the one descriptor at `head`. -/
theorem placedWordIsRunNext : Obligations.PlacedWordIsRunNext := by
  intro s n w i hwf hword
  obtain ⟨r, hp⟩ := armDesc_phase s (toLe (w % 2 ^ n) descBytes)
  have hdecode : decodeWith s.params.encoding (toLe (w % 2 ^ n) 32) = .ok i := by
    rcases hword with h | ⟨hdefault, h⟩
    · exact h
    · rw [hdefault]
      exact decode_of_decodeTableWord h
  refine stepRunsTheDecodedCommand (s.withFetchWord n w) r i hp ?queued ?served ?decoded
  all_goals rw [State.withFetchWord, armDesc_queue]
  case queued =>
    rw [Queue.armed_head, Queue.armed_tail, descBytes]
    bv_omega
  case served => exact armDesc_serves s _
  case decoded =>
    have hread := armDesc_bytesAt hwf (Laws.length_toLe (w % 2 ^ n) descBytes)
    rw [Queue.armed_head, hread]
    exact hdecode

end Sys2Proof.Machine
end

section
/-! PROOFS. A drain without failure (47_queue_controller.md R255, R258, R260, R262, R265): each step retires the command at
`head`, the `k`-th brings `head` to `tail`, and the next one stops, all inside one access (R267). -/

namespace Sys2Proof.Machine

/-! ## Runs -/

section Run
variable {M : Host.Core}

theorem run_succ_of_step {s u : M.State} (h : M.step s = .next u) (k : Nat) : M.run (k + 1) s = M.run k u := by
  rw [Host.Core.run, h]

/-- A run of at least one step that answers a state has taken its first step. -/
theorem run_succ_eq_next {k : Nat} {s t : M.State} (h : M.run (k + 1) s = .next t) :
    ∃ u, M.step s = .next u ∧ M.run k u = .next t := by
  cases hstep : M.step s with
  | next u => exact ⟨u, rfl, (run_succ_of_step hstep k).symm.trans h⟩
  | fault f => rw [Host.Core.run, hstep] at h; cases h
  | refused e => rw [Host.Core.run, hstep] at h; cases h

/-- One more step at the end of a run. -/
theorem run_succ_of_run {k : Nat} {s u : M.State} (h : M.run k s = .next u) : M.run (k + 1) s = M.step u := by
  induction k generalizing s with
  | zero =>
    obtain rfl := Host.Outcome.next.inj h
    rw [Host.Core.run]
    cases M.step s <;> rfl
  | succ k ih =>
    obtain ⟨v, hv, hrest⟩ := run_succ_eq_next h
    rw [run_succ_of_step hv]
    exact ih hrest

end Run

/-- `runDrain` follows a run whose last state is the first one without a drain. -/
theorem runDrain_of_run {n fuel : Nat} {s t : State} (hrun : Host.Core.run core n s = .next t) (hidle : t.phase = .idle)
    (hbusy : ∀ j u, j < n → Host.Core.run core j s = .next u → u.phase ≠ .idle) (hfuel : n ≤ fuel) :
    runDrain fuel s = some t := by
  induction n generalizing s fuel with
  | zero =>
    obtain rfl := Host.Outcome.next.inj hrun
    cases fuel <;> rw [runDrain, if_pos hidle]
  | succ n ih =>
    obtain ⟨f, rfl⟩ : ∃ f, fuel = f + 1 := ⟨fuel - 1, by omega⟩
    obtain ⟨u, hu, hrest⟩ := run_succ_eq_next hrun
    rw [runDrain, if_neg (hbusy 0 s (by omega) rfl), show step s = .next u from hu]
    exact ih hrest (fun j v hj hv => hbusy (j + 1) v (by omega) ((run_succ_of_step hu j).trans hv)) (by omega)

/-! ## Bits that stay set -/

/-- Bits that are set stay set when others are. -/
theorem word_or_and_eq_self {x m : Word} (h : x &&& m = m) (y : Word) : (x ||| y) &&& m = m := by
  rw [BitVec.and_or_distrib_right, h]
  ext k hk
  simp

/-- Bits just set read as set. -/
theorem word_or_and_self (x m : Word) : (x ||| m) &&& m = m := by
  rw [BitVec.or_comm]
  exact word_or_and_eq_self BitVec.and_self x

/-! ## The commands retired so far -/

/-- The registers of the queue of `s` after `j` commands have been retired without failure (R258). -/
structure Retired (s : State) (j : Nat) (u : State) : Prop where
  head : (u.queue s.cur).head = (s.queue s.cur).head + BitVec.ofNat 32 (32 * j)
  tail : (u.queue s.cur).tail = (s.queue s.cur).tail
  cur : u.cur = s.cur
  params : u.params = s.params
  last : 1 ≤ j →
    (u.queue s.cur).ists &&& bitMask s.params.bits.completion = bitMask s.params.bits.completion ∧
      (u.queue s.cur).status = 0

theorem Retired.zero (s : State) : Retired s 0 s := ⟨(BitVec.add_zero _).symm, rfl, rfl, rfl, fun h => by omega⟩

theorem Retired.succ {s u t : State} {j : Nat} (h : Retired s j u) (ht : Succeeded u t) : Retired s (j + 1) t := by
  obtain ⟨hq, ⟨-, hparams, -, hcur⟩, -⟩ := ht
  rw [h.cur, h.params] at hq
  refine ⟨?head, ?tail, hcur.trans h.cur, hparams.trans h.params, fun _ => ⟨?completion, ?status⟩⟩
  all_goals rw [hq]
  case head =>
    change (u.queue s.cur).head + 32 = _
    rw [h.head, Nat.mul_succ, BitVec.ofNat_add, BitVec.add_assoc]
    rfl
  case tail => exact h.tail
  case completion => exact word_or_and_self _ _

/-- After the `k`-th command `head` has reached a `tail` that was `k` descriptors ahead (R262, R265). -/
theorem Retired.head_eq_tail {s u : State} {k : Nat} (h : Retired s k u)
    (htail : (s.queue s.cur).tail = (s.queue s.cur).head + BitVec.ofNat 32 (32 * k)) :
    (u.queue u.cur).head = (u.queue u.cur).tail := by
  rw [h.cur, h.head, h.tail, htail]

/-- A step of a drain that goes on has retired a command. -/
theorem succeeded_of_still_draining {s t : State} {r r' : Reply} (hp : s.phase = .draining r) (ht : step s = .next t)
    (hp' : t.phase = .draining r') : Succeeded s t := by
  have hbusy : t.phase ≠ .idle := by rw [hp']; exact Phase.noConfusion
  rcases step_draining_cases hp ht with ⟨-, -, -, hidle⟩ | ⟨-, hs | ⟨-, -, hidle, -⟩⟩
  · exact absurd hidle hbusy
  · exact hs
  · exact absurd hidle hbusy

/-- As long as the drain goes on, each step retires one command. -/
theorem retired_of_draining {s : State} {r : Reply} {k : Nat}
    (h : ∀ j, j ≤ k → ∃ u : State, Host.Core.run core j s = .next u ∧ u.phase = .draining r) {j : Nat} (hj : j ≤ k) :
    ∃ u : State, Host.Core.run core j s = .next u ∧ u.phase = .draining r ∧ Retired s j u := by
  induction j with
  | zero =>
    obtain ⟨u, hu, hp⟩ := h 0 hj
    obtain rfl := Host.Outcome.next.inj hu
    exact ⟨_, rfl, hp, .zero _⟩
  | succ j ih =>
    obtain ⟨u, hu, hp, hret⟩ := ih (by omega)
    obtain ⟨t, ht, hpt⟩ := h (j + 1) hj
    have hstep : step u = .next t := (run_succ_of_run hu).symm.trans ht
    exact ⟨t, ht, hpt, hret.succ (succeeded_of_still_draining hp hstep hpt)⟩

/-! ## The statement -/

/-- Settles O42: after `k` retired commands `head` is at `tail`, and the next step is the stop. -/
theorem drainRunsTheQueuedCommandsInOrder : Obligations.DrainRunsTheQueuedCommandsInOrder := by
  rintro s r k b hp rfl hk htail hdraining
  constructor
  case left =>
    intro j hj
    obtain ⟨u, hu, -, hret⟩ := retired_of_draining hdraining hj
    exact ⟨u, hu, hret.head, hret.tail⟩
  case right =>
    obtain ⟨u, hu, hpu, hret⟩ := retired_of_draining hdraining (Nat.le_refl k)
    have hempty := hret.head_eq_tail htail
    have hrun := (run_succ_of_run hu).trans (step_of_empty hpu hempty)
    obtain ⟨hq, -, hidle⟩ := finishAccess_stopDrain_stopped hpu
    have hbusy : ∀ j v, j < k + 1 → Host.Core.run core j s = .next v → v.phase ≠ .idle := by
      intro j v hj hv
      obtain ⟨w, hw, hpw⟩ := hdraining j (by omega)
      obtain rfl := Host.Outcome.next.inj (hw.symm.trans hv)
      rw [hpw]
      exact Phase.noConfusion
    have haccess : access s = some (finishAccess (stopDrain u)) := by
      rw [access, hp]
      exact runDrain_of_run hrun hidle hbusy hk
    rw [hret.cur, hret.params] at hq
    rw [hret.cur] at hempty
    refine ⟨_, hrun, haccess, hidle, ?empty, ?halt, ?qStop, ?qEmpty, fun h1 => ?retired⟩
    all_goals rw [hq]
    case empty => exact hempty
    case halt => exact word_or_and_self _ _
    case qStop => exact word_or_and_eq_self (word_or_and_self _ _) _
    case qEmpty =>
      rw [Queue.stopped_ists, if_pos hempty]
      exact word_or_and_self _ _
    case retired =>
      obtain ⟨hcompletion, hstatus⟩ := hret.last h1
      exact ⟨word_or_and_eq_self (word_or_and_eq_self hcompletion _) _, hstatus⟩

end Sys2Proof.Machine
end

section
/-! PROOFS. The block functions and the curve (49_reference_algorithms.md R315 to R324): `AES_DEC` inverts `AES_ENC`, and what
double-and-add computes. -/

namespace Sys2Proof.Machine

/-- Settles O21: a key of either length has a word, which is all the inverse asks for. -/
theorem aesDecryptInvertsEncrypt : Obligations.AesDecryptInvertsEncrypt :=
  fun _ _ hkey hb => aesDec_aesEnc (by omega) hb

/-! ## Double-and-add (R323) -/

@[simp] theorem pointAdd_infinity_left (P : Point) : pointAdd .infinity P = P := by rw [pointAdd]

@[simp] theorem pointMul_zero (f : Nat) (P : Point) : pointMul f 0 P = .infinity := by cases f <;> rfl

/-- The recursion at the lowest bit: twice the multiple by the other bits, and the point once more if the bit is set. -/
theorem pointMul_succ {k : Nat} (hk : k ≠ 0) (f : Nat) (P : Point) :
    pointMul (f + 1) k P =
      if k % 2 = 1 then pointAdd (pointAdd (pointMul f (k / 2) P) (pointMul f (k / 2) P)) P
      else pointAdd (pointMul f (k / 2) P) (pointMul f (k / 2) P) := by
  rw [pointMul, if_neg hk]

@[simp] theorem pointMul_one (f : Nat) (P : Point) : pointMul (f + 1) 1 P = P := by simp [pointMul_succ]

/-- Every bound that holds the scalar gives the same multiple. -/
theorem pointMul_eq_of_lt {f g k : Nat} (hf : k < 2 ^ f) (hg : k < 2 ^ g) (P : Point) : pointMul f k P = pointMul g k P := by
  by_cases hk : k = 0
  · rw [hk, pointMul_zero, pointMul_zero]
  · induction f generalizing g k with
    | zero => omega
    | succ f ih =>
      cases g with
      | zero => omega
      | succ g =>
        have hhalf : pointMul f (k / 2) P = pointMul g (k / 2) P := by
          by_cases hone : k / 2 = 0
          · rw [hone, pointMul_zero, pointMul_zero]
          · exact ih (by omega) (by omega) hone
        rw [pointMul_succ hk, pointMul_succ hk, hhalf]

/-- Settles O30: the recursion once for `k = 2` and `k = 3`, and the induction on the bound. -/
theorem scalarMultiplicationIsRepeatedAddition : Obligations.ScalarMultiplicationIsRepeatedAddition := by
  refine ⟨fun f P => ⟨pointMul_zero _ P, pointMul_one _ P, ?two, ?three⟩, fun f g k P hf hg => pointMul_eq_of_lt hf hg P⟩
  case two => rw [pointMul_succ (by decide), if_neg (by decide), pointMul_one]
  case three => rw [pointMul_succ (by decide), if_pos rfl, pointMul_one]

end Sys2Proof.Machine
end

section
/-! PROOFS. The register file (48_mmio.md R275 to R303): which register an offset names, and what each access stores, answers
and triggers. -/

namespace Sys2Proof.Machine

/-! ## The register at an offset (R276, R287) -/

theorem regMap_offset_mem (m : RegMap) (r : QReg) : m.offset r ∈ m.offsets := by
  cases r <;> simp [RegMap.offset, RegMap.offsets]

/-- A register that is found lies at the offset; without a well-formed map two registers could share it. -/
theorem offset_of_regAt {m : RegMap} {o : Nat} {r : QReg} (h : regAt m o = some r) : m.offset r = o := by
  unfold regAt at h
  split_ifs at h with hcontrol htail hhead hien hists hstatus
  all_goals
    obtain rfl := Option.some.inj h
    exact (‹o = _›).symm

theorem regAt_offset {m : RegMap} (h : m.WF) (r : QReg) : regAt m (m.offset r) = some r := by
  have hdistinct := h.distinct
  simp only [RegMap.offsets, List.nodup_cons, List.mem_cons, List.not_mem_nil, or_false, not_or] at hdistinct
  cases r <;> simp_all [regAt, RegMap.offset, eq_comm]

/-- The number of a queue's block. -/
def QId.block : QId → Nat
  | .q0 => 0
  | .q1 => 1

theorem primaryOffset_eq (m : RegMap) (q : QId) (r : QReg) :
    primaryOffset m q r = m.qBase + (q.block * m.qStride + m.offset r) := by
  cases q <;> exact Nat.add_assoc _ _ _

/-- An offset that names a register is that register's, whatever the map. -/
theorem eq_primaryOffset_of_primaryTarget {m : RegMap} {off : Nat} {q : QId} {r : QReg}
    (h : primaryTarget m off = .reg q r) : off = primaryOffset m q r := by
  unfold primaryTarget at h
  split_ifs at h with hbase
  dsimp only at h
  split at h
  next => cases h
  next r' hreg =>
    have hoff := offset_of_regAt hreg
    have hdiv := Nat.div_add_mod' (off - m.qBase) m.qStride
    split_ifs at h with h0 h1
    all_goals
      cases h
      rw [primaryOffset_eq, QId.block, hoff]
    · rw [h0] at hdiv
      omega
    · rw [h1] at hdiv
      omega

theorem primaryTarget_eq_global_iff (m : RegMap) (off : Nat) : primaryTarget m off = .global ↔ off < m.qBase := by
  refine ⟨fun h => ?_, fun h => if_pos h⟩
  unfold primaryTarget at h
  split_ifs at h with hbase
  · exact hbase
  · dsimp only at h
    split at h
    next => cases h
    next => split_ifs at h

/-- A register's offset names it, because registers are distinct and inside their block. -/
theorem primaryTarget_primaryOffset {m : RegMap} (h : m.WF) (q : QId) (r : QReg) :
    primaryTarget m (primaryOffset m q r) = .reg q r := by
  obtain ⟨hinside, -⟩ := h.inside _ (regMap_offset_mem m r)
  have hpos : 0 < m.qStride := by omega
  have hblock : (q.block * m.qStride + m.offset r) / m.qStride = q.block := by
    rw [Nat.add_comm, Nat.add_mul_div_right _ _ hpos, Nat.div_eq_of_lt hinside, Nat.zero_add]
  have hreg : (q.block * m.qStride + m.offset r) % m.qStride = m.offset r := by
    rw [Nat.mul_add_mod', Nat.mod_eq_of_lt hinside]
  rw [primaryOffset_eq, primaryTarget, if_neg (by omega), Nat.add_sub_cancel_left, hreg, hblock, regAt_offset h]
  cases q <;> rfl

/-- The offset of a register is a multiple of 4 in one of the two blocks, at one of the six places in it. -/
theorem primaryOffset_place {m : RegMap} (h : m.WF) (q : QId) (r : QReg) :
    primaryOffset m q r < m.qBase + 2 * m.qStride ∧ primaryOffset m q r % 4 = 0 ∧
      (primaryOffset m q r - m.qBase) % m.qStride ∈ m.offsets := by
  obtain ⟨hinside, hword⟩ := h.inside _ (regMap_offset_mem m r)
  have hbase := h.base
  have hstride := h.stride
  refine ⟨?blocks, ?word, ?place⟩
  case blocks => cases q <;> rw [primaryOffset_eq, QId.block] <;> omega
  case word => cases q <;> rw [primaryOffset_eq, QId.block] <;> omega
  case place =>
    rw [primaryOffset_eq, Nat.add_sub_cancel_left, Nat.mul_add_mod', Nat.mod_eq_of_lt hinside]
    exact regMap_offset_mem m r

/-- What is past the global offsets and no register is undefined. -/
theorem primaryTarget_undefined {m : RegMap} {off : Nat} (h : m.WF) (hbase : m.qBase ≤ off)
    (hno : m.qBase + 2 * m.qStride ≤ off ∨ off % 4 ≠ 0 ∨ (off - m.qBase) % m.qStride ∉ m.offsets) :
    primaryTarget m off = .undefined := by
  cases htarget : primaryTarget m off with
  | undefined => rfl
  | global => exact absurd ((primaryTarget_eq_global_iff m off).1 htarget) (by omega)
  | reg q r =>
    obtain rfl := eq_primaryOffset_of_primaryTarget htarget
    obtain ⟨hblocks, hword, hplace⟩ := primaryOffset_place h q r
    rcases hno with hno | hno | hno
    · omega
    · exact absurd hword hno
    · exact absurd hplace hno

/-! ## The bits of a register -/

/-- The test of one bit (R282). -/
theorem and_bitMask_ne_zero (v : Word) (i : Fin 32) : ((v &&& bitMask i) != 0) = v.getLsbD i := by
  have hbit : bitMask i ≠ 0 := by
    intro h
    have hget := congrArg (BitVec.getLsbD · i) h
    simp [bitMask] at hget
  rw [bitMask, BitVec.and_twoPow]
  cases v.getLsbD i with
  | false => rfl
  | true => exact bne_iff_ne.2 hbit

/-- No register but `control` and `ien` has an effect on whether the queue runs or interrupts. -/
theorem Queue.writeReg_plain (b : QueueBits) (q : Queue) {r : QReg} (hc : r ≠ .control) (hi : r ≠ .ien) (v : Word) :
    (q.writeReg b r v).ien = q.ien ∧ (q.writeReg b r v).enabled = q.enabled := by
  cases r with
  | control => exact absurd rfl hc
  | ien => exact absurd rfl hi
  | tail | head | ists | status => exact ⟨rfl, rfl⟩

theorem writeTriggers_plain (p : Params) (q : Queue) {r : QReg} (hc : r ≠ .control) (hi : r ≠ .ien) :
    writeTriggers p q r = true ↔ p.drainOnWrite = .anyWriteIenNonzero ∧ q.ien ≠ 0 := by
  cases r with
  | control => exact absurd rfl hc
  | ien => exact absurd rfl hi
  | tail | head | ists | status => simp [writeTriggers]

/-! ## One access -/

section Access
variable {s : State} {rest : List HostEvent}

/-- An idle device serves the next action of the host (R267, R275). -/
theorem step_of_pending {e : HostEvent} (hp : s.phase = .idle) (hpend : s.pending = e :: rest) :
    step s = .next (accept e (s.setPending rest)) := by
  rw [step, hp]
  exact congrArg Host.Outcome.next (by rw [serveHost, hpend])

theorem respond_setPending (s : State) (rest : List HostEvent) (d : ReadData) :
    respond d (s.setPending rest) = answered s rest d := rfl

/-- A trigger begins a drain of an enabled queue, else it ends the access (R290). -/
theorem trigger_setPending (s : State) (rest : List HostEvent) (q : QId) (reply : Reply) :
    trigger q reply (s.setPending rest) =
      if (s.queue q).enabled = true then drainBegun s rest q reply else answered s rest (reply.data (s.queue q)) := by
  cases q <;> rfl

theorem setPending_setQueue (s : State) (rest : List HostEvent) (q : QId) (v : Queue) :
    (s.setPending rest).setQueue q v = (s.setQueue q v).setPending rest := by cases q <;> rfl

/-- A write of a register: the store, then the trigger test (R282 to R290). -/
theorem step_writeReg {q : QId} {r : QReg} {v : Nat} {u : State} (hp : s.phase = .idle) (hwf : s.params.regs.WF)
    (hpend : s.pending = .primaryWrite (primaryOffset s.params.regs q r) 32 v :: rest)
    (hu : u = s.setQueue q ((s.queue q).writeReg s.params.bits r (BitVec.ofNat 32 v))) :
    step s = .next
      (if writeTriggers s.params (u.queue q) r = true ∧ (u.queue q).enabled = true then drainBegun u rest q .write
      else answered u rest .none) := by
  have hstore : (s.setPending rest).setQueue q ((s.queue q).writeReg s.params.bits r (BitVec.ofNat 32 v)) =
      u.setPending rest := by rw [setPending_setQueue, hu]
  rw [step_of_pending hp hpend, accept, primaryWrite, mmioWidth, if_pos rfl, State.setPending_params,
    primaryTarget_primaryOffset hwf]
  dsimp only
  rw [State.setPending_queue, hstore, State.setPending_queue, trigger_setPending, respond_setPending, ite_and]
  rfl

/-- A write that neither runs the queue nor enables an interrupt triggers under `any_write_ien_nonzero` only (R290). -/
theorem step_writePlain {q : QId} {r : QReg} {v : Nat} {u : State} (hc : r ≠ .control) (hi : r ≠ .ien)
    (hp : s.phase = .idle) (hwf : s.params.regs.WF)
    (hpend : s.pending = .primaryWrite (primaryOffset s.params.regs q r) 32 v :: rest)
    (hu : u = s.setQueue q ((s.queue q).writeReg s.params.bits r (BitVec.ofNat 32 v))) :
    step s = .next
      (if s.params.drainOnWrite = .anyWriteIenNonzero ∧ (s.queue q).ien ≠ 0 ∧ (s.queue q).enabled = true then
        drainBegun u rest q .write
      else answered u rest .none) := by
  obtain ⟨hien, hen⟩ := (s.queue q).writeReg_plain s.params.bits hc hi (BitVec.ofNat 32 v)
  have hq : u.queue q = (s.queue q).writeReg s.params.bits r (BitVec.ofNat 32 v) := by rw [hu, State.setQueue_queue]
  rw [step_writeReg hp hwf hpend hu, hq]
  simp only [writeTriggers_plain _ _ hc hi, hien, hen, and_assoc]

/-- A read of a register is a trigger (R280, R281). -/
theorem step_readReg {q : QId} {r : QReg} (hp : s.phase = .idle) (hwf : s.params.regs.WF)
    (hpend : s.pending = .primaryRead (primaryOffset s.params.regs q r) 32 :: rest) :
    step s = .next
      (if (s.queue q).enabled = true then drainBegun s rest q (.read r)
      else answered s rest (.word ((s.queue q).readReg r))) := by
  rw [step_of_pending hp hpend, accept, primaryRead, mmioWidth, if_pos rfl, State.setPending_params,
    primaryTarget_primaryOffset hwf]
  exact congrArg _ (trigger_setPending s rest q (.read r))

/-- A read where no register is answers 0 (R278, R287). -/
theorem step_readNoReg {off : Nat} (hp : s.phase = .idle) (hpend : s.pending = .primaryRead off 32 :: rest)
    (h : primaryTarget s.params.regs off = .global ∨ primaryTarget s.params.regs off = .undefined) :
    step s = .next (answered s rest (.word 0)) := by
  rw [step_of_pending hp hpend, accept, primaryRead, mmioWidth, if_pos rfl, State.setPending_params]
  rcases h with h | h <;> rw [h] <;> rfl

/-- A write where no register is does nothing but end its access (R278, R287). -/
theorem step_writeNoReg {off v : Nat} (hp : s.phase = .idle) (hpend : s.pending = .primaryWrite off 32 v :: rest)
    (h : primaryTarget s.params.regs off = .global ∨ primaryTarget s.params.regs off = .undefined) :
    step s = .next (answered s rest .none) := by
  rw [step_of_pending hp hpend, accept, primaryWrite, mmioWidth, if_pos rfl, State.setPending_params]
  rcases h with h | h <;> rw [h] <;> rfl

/-- A rejected read answers a value of its width and counts it (R277, R303). -/
theorem rejectRead_setPending (s : State) (rest : List HostEvent) (width : Nat) :
    ∃ a, a < 2 ^ width ∧
      rejectRead width (s.setPending rest) = { answered s rest (.rejected a) with freeCount := s.freeCount + 1 } :=
  ⟨_, Nat.mod_lt _ (Nat.two_pow_pos width), rfl⟩

end Access

/-! ## The statements -/

/-- Settles O44: a store to `control` is no trigger. -/
theorem controlWriteNeverDrains : Obligations.ControlWriteNeverDrains := by
  intro s q v rest hp hwf hpend
  rw [step_writeReg hp hwf hpend rfl, if_neg (fun h => Bool.false_ne_true h.1), Queue.writeReg, and_bitMask_ne_zero]

/-- Settles O45: the three registers are plain. -/
theorem plainWritesStoreTheWord : Obligations.PlainWritesStoreTheWord := by
  rintro s q x v rest u hp hwf hpend (⟨rfl, hu⟩ | ⟨rfl, hu⟩ | ⟨rfl, hu⟩)
  all_goals exact step_writePlain (by decide) (by decide) hp hwf hpend hu

/-- Settles O46: the trigger test looks at the word just stored. -/
theorem ienWriteTriggersWhenNonzero : Obligations.IenWriteTriggersWhenNonzero := by
  intro s q v rest u hp hwf hpend hu
  have hq : u.queue q = (s.queue q).writeReg s.params.bits .ien (BitVec.ofNat 32 v) := by
    rw [hu, State.setQueue_queue, Queue.writeReg]
  have htest : writeTriggers s.params (u.queue q) .ien = true ↔ BitVec.ofNat 32 v ≠ 0 := by
    rw [hq, writeTriggers, Queue.writeReg_ien_ien, bne_iff_ne]
  have hen : (u.queue q).enabled = (s.queue q).enabled := by rw [hq, Queue.writeReg_ien_enabled]
  rw [step_writeReg hp hwf hpend hu]
  simp only [htest, hen]

/-- Settles O47: `ists` is a plain register for the trigger test. -/
theorem istsWriteClearsBits : Obligations.IstsWriteClearsBits :=
  fun _ _ _ _ _ hp hwf hpend hu => step_writePlain (by decide) (by decide) hp hwf hpend hu

/-- Settles O48, with the stored word register by register. -/
theorem registerReadTriggersDrain : Obligations.RegisterReadTriggersDrain := by
  intro s q x rest hp hwf hpend
  rw [step_readReg hp hwf hpend]
  cases x <;> rfl

/-- Settles O49: a global offset is no register. -/
theorem globalRegistersReadZero : Obligations.GlobalRegistersReadZero := by
  intro s off v rest hp hoff
  have htarget := (primaryTarget_eq_global_iff _ _).2 hoff
  exact ⟨fun hpend => step_readNoReg hp hpend (.inl htarget), fun hpend => step_writeNoReg hp hpend (.inl htarget)⟩

/-- Settles O50: each of the three ways leaves no register at the offset. -/
theorem undefinedOffsetsReadZero : Obligations.UndefinedOffsetsReadZero := by
  rintro s off v rest m hp rfl hwf hbase hno
  have htarget := primaryTarget_undefined hwf hbase hno
  exact ⟨fun hpend => step_readNoReg hp hpend (.inr htarget), fun hpend => step_writeNoReg hp hpend (.inr htarget)⟩

/-- Settles O51: the width is looked at before the offset. -/
theorem otherWidthsAreRejected : Obligations.OtherWidthsAreRejected := by
  intro s off width v rest hp
  refine ⟨fun hpend => ?secondaryWrite, fun hw hpend => ?primaryWrite, fun hw hpend => ?reads⟩
  case secondaryWrite => exact step_of_pending hp hpend
  case primaryWrite =>
    rw [step_of_pending hp hpend, accept, primaryWrite, mmioWidth, if_neg hw]
    rfl
  case reads =>
    obtain ⟨a, ha, hreject⟩ := rejectRead_setPending s rest width
    refine ⟨a, ha, ?_⟩
    rcases hpend with hpend | hpend
    · rw [step_of_pending hp hpend, accept, primaryRead, mmioWidth, if_neg hw, hreject]
    · rw [step_of_pending hp hpend, accept, secondaryRead, mmioWidth, if_neg hw, hreject]

/-- Settles O52: a read of the full width answers `secondaryWord`. -/
theorem secondaryRegionReads : Obligations.SecondaryRegionReads := by
  intro s off rest hp hpend
  rw [step_of_pending hp hpend, accept, secondaryRead, mmioWidth, if_pos rfl]
  rfl

end Sys2Proof.Machine
end

section
/-! PROOFS. The interrupt status bits (60_exceptions.md R363): the controller sets some, firmware clears some by writing `ists`,
and nothing else touches them. -/

namespace Sys2Proof.Machine

/-! ## The controller -/

/-- Bits that others are added to are all still there. -/
theorem word_and_not_or (x y : Word) : x &&& ~~~(x ||| y) = 0 := by
  ext k hk
  cases hx : x[k] <;> simp [hx]

/-- A step of a drain only adds interrupt bits (R363; 47_queue_controller.md R258 to R260). -/
theorem step_draining_ists {s t : State} {r : Reply} (hp : s.phase = .draining r) (ht : step s = .next t) (q : QId) :
    ∃ m, (t.queue q).ists = (s.queue q).ists ||| m := by
  by_cases hq : q = s.cur
  · subst hq
    rcases step_draining_cases hp ht with ⟨-, hstop, -⟩ | ⟨-, ⟨hdone, -⟩ | ⟨hfail, -⟩⟩
    · exact ⟨_, by rw [hstop, Queue.stopped_ists, BitVec.or_assoc]⟩
    · exact ⟨_, congrArg Queue.ists hdone⟩
    · exact ⟨_, by rw [hfail, BitVec.or_assoc, BitVec.or_assoc]⟩
  · have hsame : t.queue q = s.queue q := by
      obtain ⟨⟨hothers, -⟩, -⟩ := drainKeepsWhatOnlyFirmwareWrites s t r hp ht
      exact hothers q hq
    exact ⟨0#32, by rw [hsame, BitVec.or_zero]⟩

/-! ## The host -/

/-- A trigger moves no interrupt bit (R256). -/
theorem trigger_ists (q' : QId) (reply : Reply) (s : State) (q : QId) :
    ((trigger q' reply s).queue q).ists = (s.queue q).ists := by
  unfold trigger
  split
  · cases q <;> cases q' <;> rfl
  · rw [respond_queue]

theorem primaryRead_ists (off width : Nat) (s : State) (q : QId) :
    ((primaryRead off width s).queue q).ists = (s.queue q).ists := by
  unfold primaryRead
  split
  · split
    · exact trigger_ists _ _ s q
    · rw [respond_queue]
    · rw [respond_queue]
  · rw [rejectRead, respond_queue, State.bumpFree_queue]

theorem Queue.writeReg_ists_of_ne (b : QueueBits) (q : Queue) {r : QReg} (h : r ≠ .ists) (v : Word) :
    (q.writeReg b r v).ists = q.ists := by
  cases r with
  | ists => exact absurd rfl h
  | control | tail | head | ien | status => rfl

/-- The store of a register other than the `ists` of queue `q` leaves that `ists` alone. -/
theorem setQueue_writeReg_ists (s : State) {q q' : QId} {r : QReg} (h : q' = q → r ≠ .ists) (v : Word) :
    ((s.setQueue q' ((s.queue q').writeReg s.params.bits r v)).queue q).ists = (s.queue q).ists := by
  by_cases hq : q' = q
  · rw [hq, State.setQueue_queue, Queue.writeReg_ists_of_ne _ _ (h hq)]
  · rw [State.setQueue_queue_ne s _ (Ne.symm hq)]

theorem primaryWrite_ists {off width value : Nat} {s : State} {q : QId}
    (h : width = 32 → off ≠ primaryOffset s.params.regs q .ists) :
    ((primaryWrite off width value s).queue q).ists = (s.queue q).ists := by
  unfold primaryWrite
  split
  next hwidth =>
    split
    next q' r htarget =>
      have hother : q' = q → r ≠ .ists := by
        rintro rfl rfl
        exact h hwidth (eq_primaryOffset_of_primaryTarget htarget)
      have hstore := setQueue_writeReg_ists s hother (BitVec.ofNat 32 value)
      dsimp only
      split
      · rw [trigger_ists, hstore]
      · rw [respond_queue, hstore]
    next => rw [respond_queue]
    next => rw [respond_queue]
  next => rw [respond_queue]

/-- No action of the host but a write to the `ists` of queue `q` moves its interrupt bits. -/
theorem accept_ists {e : HostEvent} {s : State} {q : QId}
    (h : ∀ v, e ≠ .primaryWrite (primaryOffset s.params.regs q .ists) 32 v) :
    ((accept e s).queue q).ists = (s.queue q).ists := by
  cases e with
  | primaryRead off width => exact primaryRead_ists off width s q
  | primaryWrite off width value => exact primaryWrite_ists fun hw ho => h value (by rw [hw, ho])
  | secondaryRead off width =>
    rw [accept, secondaryRead]
    split
    · rw [respond_queue]
    · rw [rejectRead, respond_queue, State.bumpFree_queue]
  | secondaryWrite off width value => rw [accept, secondaryWrite, respond_queue]
  | localStore addr data =>
    rw [accept]
    rcases localStore_cases addr data s with he | ⟨-, he⟩ <;> rw [he]
    rw [State.setLocal_queue]

/-- Settles O55: a drain adds bits, and an action of the host other than the excluded write moves none. -/
theorem onlyFirmwareClearsInterrupts : Obligations.OnlyFirmwareClearsInterrupts := by
  intro s t q ht hno
  have hadds : ∃ m, (t.queue q).ists = (s.queue q).ists ||| m := by
    cases hp : s.phase with
    | draining r => exact step_draining_ists hp ht q
    | idle =>
      cases hpend : s.pending with
      | nil =>
        obtain rfl := Host.Outcome.next.inj ((idleDeviceDoesNothing s hp hpend).symm.trans ht)
        exact ⟨0#32, BitVec.or_zero.symm⟩
      | cons e rest =>
        obtain rfl := Host.Outcome.next.inj ((step_of_pending hp hpend).symm.trans ht)
        have hother : ∀ v, e ≠ .primaryWrite (primaryOffset (s.setPending rest).params.regs q .ists) 32 v := by
          rintro v rfl
          exact hno hp v rest hpend
        exact ⟨0#32, by rw [accept_ists hother, State.setPending_queue, BitVec.or_zero]⟩
  obtain ⟨m, hm⟩ := hadds
  rw [hm, word_and_not_or]

end Sys2Proof.Machine
end

section
/-! PROOFS. The end of an access (48_mmio.md R293; 60_exceptions.md R364): every step either ends one, with one answer and the
interrupt line at its level, or answers nothing; so a whole access answers once (47_queue_controller.md R267). -/

namespace Sys2Proof.Machine

/-- The step or the steps from `s` to `t` have ended an access: one answer more, and the line at its level. -/
structure AccessEnded (s t : State) : Prop where
  phase : t.phase = .idle
  line : t.irqLine = lineLevel t
  answer : ∃ d, t.responses = { data := d, irq := { prio := 0, devId := 0x15, level := lineLevel t } } :: s.responses

/-- A drain is in progress in `t` and nothing was answered since `s`. -/
structure StillDraining (s t : State) : Prop where
  phase : ∃ r, t.phase = .draining r
  responses : t.responses = s.responses

theorem AccessEnded.of_responses {s u t : State} (h : AccessEnded u t) (hu : u.responses = s.responses) : AccessEnded s t :=
  ⟨h.phase, h.line, hu ▸ h.answer⟩

theorem accessEnded_respond {s : State} (d : ReadData) (hp : s.phase = .idle) : AccessEnded s (respond d s) :=
  ⟨hp, rfl, d, rfl⟩

/-! ## The first step of an access -/

theorem trigger_ends_or_drains {s : State} (q : QId) (reply : Reply) (hp : s.phase = .idle) :
    AccessEnded s (trigger q reply s) ∨ StillDraining s (trigger q reply s) := by
  unfold trigger
  split
  · exact .inr ⟨⟨reply, rfl⟩, State.setQueue_responses _ q _⟩
  · exact .inl (accessEnded_respond _ hp)

theorem trigger_pending (q : QId) (reply : Reply) (s : State) : (trigger q reply s).pending = s.pending := by
  unfold trigger
  split
  · exact State.setQueue_pending _ q _
  · rfl

theorem Stored.responses {s u : State} (h : Stored s u) : u.responses = s.responses := by
  cases h with
  | nothing | free => rfl
  | register q r v => exact State.setQueue_responses s q _

theorem Stored.pending {s u : State} (h : Stored s u) : u.pending = s.pending := by
  cases h with
  | nothing | free => rfl
  | register q r v => exact State.setQueue_pending s q _

theorem Answers.ends_or_drains {u t : State} (h : Answers u t) (hp : u.phase = .idle) :
    AccessEnded u t ∨ StillDraining u t := by
  rcases h with ⟨d, rfl⟩ | ⟨q, reply, rfl⟩
  · exact .inl (accessEnded_respond d hp)
  · exact trigger_ends_or_drains q reply hp

theorem Answers.pending {u t : State} (h : Answers u t) : t.pending = u.pending := by
  rcases h with ⟨d, rfl⟩ | ⟨q, reply, rfl⟩
  · rfl
  · exact trigger_pending q reply u

/-- An MMIO access ends in its first step, or begins a drain (R289, R290); it takes no other action of the host. -/
theorem accept_ends_or_drains {e : HostEvent} {s : State} (he : e.isMmio = true) (hp : s.phase = .idle) :
    (AccessEnded s (accept e s) ∨ StillDraining s (accept e s)) ∧ (accept e s).pending = s.pending := by
  obtain ⟨u, hu, ht⟩ := accept_cases he s
  refine ⟨?_, ht.pending.trans hu.pending⟩
  rcases ht.ends_or_drains (hu.phase.trans hp) with hend | hdrain
  · exact .inl (hend.of_responses hu.responses)
  · exact .inr ⟨hdrain.phase, hdrain.responses.trans hu.responses⟩

/-- The host's own store is no access: it answers nothing (R305). -/
theorem localStore_responses (addr : Nat) (data : Bytes) (s : State) : (localStore addr data s).responses = s.responses := by
  rcases localStore_cases addr data s with he | ⟨-, he⟩ <;> rw [he]
  rfl

/-! ## The steps of a drain -/

theorem Failed.accessEnded {s t : State} (h : Failed s t) : AccessEnded s t := by
  obtain ⟨-, -, hidle, hline, d, hd⟩ := h
  exact ⟨hidle, hline, d, by rw [hd, hline]; rfl⟩

theorem Failed.pending {s t : State} (h : Failed s t) : t.pending = s.pending := by
  obtain ⟨-, ⟨-, -, hpending, -⟩, -⟩ := h
  exact hpending

theorem Succeeded.pending {s t : State} (h : Succeeded s t) : t.pending = s.pending := by
  obtain ⟨-, ⟨-, -, hpending, -⟩, -⟩ := h
  exact hpending

theorem Succeeded.stillDraining {s t : State} {r : Reply} (h : Succeeded s t) (hp : s.phase = .draining r) :
    StillDraining s t := by
  obtain ⟨-, -, hphase, -, hresponses⟩ := h
  exact ⟨⟨r, hphase.trans hp⟩, hresponses⟩

theorem finishAccess_stopDrain_accessEnded {s : State} {r : Reply} (hp : s.phase = .draining r) :
    AccessEnded s (finishAccess (stopDrain s)) := by
  rw [finishAccess_stopDrain_eq hp]
  exact ⟨rfl, rfl, _, congrArg (_ :: ·) (State.setQueue_responses s s.cur _)⟩

/-- A step of a drain ends its access, or the drain goes on; it takes no action of the host (R267). -/
theorem step_draining_ends_or_drains {s t : State} {r : Reply} (hp : s.phase = .draining r) (ht : step s = .next t) :
    (AccessEnded s t ∨ StillDraining s t) ∧ t.pending = s.pending := by
  by_cases he : (s.queue s.cur).head = (s.queue s.cur).tail
  · obtain rfl := Host.Outcome.next.inj ((step_of_empty hp he).symm.trans ht)
    obtain ⟨-, ⟨-, -, hpending, -⟩, -⟩ := finishAccess_stopDrain_stopped hp
    exact ⟨.inl (finishAccess_stopDrain_accessEnded hp), hpending⟩
  · obtain ⟨t', ht', hends⟩ := drainStep_succeeds_or_fails hp
    obtain rfl := Host.Outcome.next.inj (ht'.symm.trans ((step_draining hp he).symm.trans ht))
    rcases hends with hs | hf
    · exact ⟨.inr (hs.stillDraining hp), hs.pending⟩
    · exact ⟨.inl hf.accessEnded, hf.pending⟩

/-! ## Every step, and a whole access -/

/-- A step that answers ends an access. -/
theorem accessEnded_of_step {s t : State} (ht : step s = .next t) (hne : t.responses ≠ s.responses) : AccessEnded s t := by
  cases hp : s.phase with
  | draining r =>
    obtain ⟨hend | hdrain, -⟩ := step_draining_ends_or_drains hp ht
    · exact hend
    · exact absurd hdrain.responses hne
  | idle =>
    cases hpend : s.pending with
    | nil =>
      obtain rfl := Host.Outcome.next.inj ((idleDeviceDoesNothing s hp hpend).symm.trans ht)
      exact absurd rfl hne
    | cons e rest =>
      obtain rfl := Host.Outcome.next.inj ((step_of_pending hp hpend).symm.trans ht)
      cases hm : e.isMmio with
      | true =>
        obtain ⟨hend | hdrain, -⟩ := accept_ends_or_drains (s := s.setPending rest) hm hp
        · exact hend.of_responses rfl
        · exact absurd hdrain.responses hne
      | false =>
        cases e with
        | localStore addr data => exact absurd (localStore_responses addr data (s.setPending rest)) hne
        | _ => cases hm

theorem runDrain_idle {s : State} (hp : s.phase = .idle) (fuel : Nat) : runDrain fuel s = some s := by
  cases fuel <;> rw [runDrain, if_pos hp]

theorem phase_ne_idle {s : State} {r : Reply} (hp : s.phase = .draining r) : s.phase ≠ .idle := by
  rw [hp]
  exact Phase.noConfusion

/-- The steps of a drain that come to its end answer its access once. -/
theorem runDrain_ends {fuel : Nat} {s t : State} {r : Reply} (hp : s.phase = .draining r) (h : runDrain fuel s = some t) :
    AccessEnded s t ∧ t.pending = s.pending := by
  induction fuel generalizing s r with
  | zero =>
    rw [runDrain, if_neg (phase_ne_idle hp)] at h
    cases h
  | succ fuel ih =>
    rw [runDrain, if_neg (phase_ne_idle hp)] at h
    cases hstep : step s with
    | fault f => exact nomatch f
    | refused e => rw [hstep] at h; cases h
    | next u =>
      rw [hstep] at h
      dsimp only at h
      obtain ⟨hend | hdrain, hpending⟩ := step_draining_ends_or_drains hp hstep
      · rw [runDrain_idle hend.phase] at h
        obtain rfl := Option.some.inj h
        exact ⟨hend, hpending⟩
      · obtain ⟨r', hr'⟩ := hdrain.phase
        obtain ⟨hend, hrest⟩ := ih hr' h
        exact ⟨hend.of_responses hdrain.responses, hrest.trans hpending⟩

/-- A whole access answers once and takes the host's action that began it, no other (R267). -/
theorem access_ends {s t : State} {e : HostEvent} {rest : List HostEvent} (hp : s.phase = .idle)
    (hpend : s.pending = e :: rest) (he : e.isMmio = true) (h : access s = some t) : AccessEnded s t ∧ t.pending = rest := by
  have hrun : runDrain drainFuel (accept e (s.setPending rest)) = some t := by
    rw [access, hp, serveHost, hpend] at h
    exact h
  obtain ⟨hend | hdrain, hpending⟩ := accept_ends_or_drains (s := s.setPending rest) he hp
  · rw [runDrain_idle hend.phase] at hrun
    obtain rfl := Option.some.inj hrun
    exact ⟨hend.of_responses rfl, hpending⟩
  · obtain ⟨r, hr⟩ := hdrain.phase
    obtain ⟨hlast, hrest⟩ := runDrain_ends hr hrun
    exact ⟨hlast.of_responses hdrain.responses, hrest.trans hpending⟩

/-- Settles O56: what a step that answers and a whole access have ended is an access. -/
theorem lineFollowsEveryAccess : Obligations.LineFollowsEveryAccess := by
  constructor
  case left =>
    intro s t ht hne
    obtain ⟨hidle, hline, d, hd⟩ := accessEnded_of_step ht hne
    exact ⟨d, hidle, hline, hd⟩
  case right =>
    intro s t e rest hp hpend he h
    obtain ⟨⟨hidle, hline, d, hd⟩, hpending⟩ := access_ends hp hpend he h
    exact ⟨d, hidle, hpending, hline, hd⟩

end Sys2Proof.Machine
end
